-- ==== Sys2Proof/Word.lean ====
section
/-! DEFINITION. The unsigned widths of the block's fields and port values (spec/10_state.md R29). -/

namespace Sys2Proof

/-- `u8` (R29): a frame byte, a header, a channel, a status register. -/
abbrev Byte := BitVec 8

/-- `u16` (R29). -/
abbrev Half := BitVec 16

/-- `u32` (R29), also the width `SIZE_W` of `size` (00_scope.md R6). -/
abbrev Word := BitVec 32

/-- `f64` (R29): the bit pattern of an IEEE 754 binary64 value. -/
abbrev F64 := BitVec 64

end Sys2Proof
end

