-- ==== Sys2Proof/Config.lean ====
section
/-! DEFINITION. The implementation parameters of spec/00_scope.md R6 and the constraints R7 puts on them.
The parameters with a value from the source are constants; those R6 marks OPEN are the fields of `Config`. -/

namespace Sys2Proof

/-- `FRAME_SIZE`: bytes in a wire frame, header included (R6). -/
abbrev frameSize : Nat := 64

/-- `HEADER_SIZE` (R6). -/
abbrev headerSize : Nat := 1

/-- `PAYLOAD_MAX` (R6). -/
abbrev payloadMax : Nat := frameSize - headerSize

/-- `MODULE_DATA_MAX`: bytes of the `moduleData` field and the largest legal `dataLen` (R6). -/
abbrev moduleDataMax : Nat := 20

/-- `DATA_OFFSET`: frame offset of the first data byte of a `DATA` frame (R6, 30_encoding.md R53). -/
abbrev dataOffset : Nat := 5

/-- `DATA_MAX`: the most data bytes a `DATA` frame can hold (R6). -/
abbrev dataMax : Nat := frameSize - dataOffset

/-- Frame offset of the first byte of `moduleData` (30_encoding.md R56). -/
abbrev moduleDataOffset : Nat := 3

/-- `MODID_COLD_PALETTE` (R6, from the source). -/
abbrev modIdColdPalette : Byte := 0#8

/-- The header value the source calls unused/reserved (R7). -/
abbrev unusedHeader : Byte := 5#8

/-- The OPEN parameters of R6: their values are not in the source. -/
structure Config where
  /-- `OP_DATA`. -/
  opData : Byte
  /-- `OP_STOP`. -/
  opStop : Byte
  /-- `OP_START_CLOCKWISE`. -/
  opStartClockwise : Byte
  /-- `OP_START_COUNTER_CLOCKWISE`. -/
  opStartCounterClockwise : Byte
  /-- `OP_START_AUTO_SWITCHER`. -/
  opStartAutoSwitcher : Byte
  /-- `OP_SET_MODULE_ID_DATA`. -/
  opSetModuleIdData : Byte
  /-- `OP_GET_MODULE_ID_DATA`. -/
  opGetModuleIdData : Byte
  /-- `MODID_RGB_CAP`. -/
  modIdRgbCap : Byte
  deriving DecidableEq, Repr

/-- The seven opcode values in the order of 30_encoding.md R52. -/
def Config.opcodes (c : Config) : List Byte :=
  [c.opData, c.opStop, c.opStartClockwise, c.opStartCounterClockwise, c.opStartAutoSwitcher,
   c.opSetModuleIdData, c.opGetModuleIdData]

/-- The constraints of R7 on the OPEN parameters: the seven opcodes are pairwise different, none is the
unused header value, and the two module ids differ. -/
abbrev Config.Legal (c : Config) : Prop :=
  c.opcodes.Nodup ∧ unusedHeader ∉ c.opcodes ∧ c.modIdRgbCap ≠ modIdColdPalette

/-- DESIGN CHOICE (the spec's own, 92_eei_decisions.md D1 and D2; log entries 1 and 2; unsafe for a claim that
uses the values): the default parameter values of R6. -/
def Config.default : Config where
  opData := 0
  opStop := 1
  opStartClockwise := 2
  opStartCounterClockwise := 3
  opStartAutoSwitcher := 4
  opSetModuleIdData := 6
  opGetModuleIdData := 7
  modIdRgbCap := 1

end Sys2Proof
end

