-- ==== Sys2Proof/Syntax.lean ====
section
/-! DEFINITION. The instructions: one constructor per row of spec/opcode_table.json, receive rows first, and
the two forms in which an instruction reaches the block. -/

namespace Sys2Proof

/-- One instruction of the block (30_encoding.md R64). A mnemonic that exists in both directions is two rows
and two constructors, because receiving and transmitting the same opcode are different operations. A receive
row names no operand in the syntax: its operands are fields of the received frame, which its meaning reads from
RXF by the bounds-checked primitives (10_state.md R17, 30_encoding.md R60). -/
inductive Instr where
  /-- `DATA.8`, received (41_decode_data.md R102). -/
  | rxData8
  /-- `DATA.16`, received (R103). -/
  | rxData16
  /-- `DATA.32`, received (R104). -/
  | rxData32
  /-- `DATA.RSV`, received (R105). -/
  | rxDataRsv
  /-- `GET_MODULE_ID_DATA`, received (42_decode_module_id.md R121). -/
  | rxGetModuleIdData
  /-- `STOP`, received (43_decode_ignored.md R131). -/
  | rxStop
  /-- `START_CLOCKWISE`, received (R131). -/
  | rxStartClockwise
  /-- `START_COUNTER_CLOCKWISE`, received (R131). -/
  | rxStartCounterClockwise
  /-- `START_AUTO_SWITCHER`, received (R131). -/
  | rxStartAutoSwitcher
  /-- `SET_MODULE_ID_DATA`, received (R132). -/
  | rxSetModuleIdData
  /-- `UNKNOWN`, received: a header byte that is none of the seven opcodes (R133). -/
  | rxUnknown (header : Byte)
  /-- `STOP`, transmitted (45_encode_channel.md R152). -/
  | txStop (channel : Byte)
  /-- `START_CLOCKWISE`, transmitted (R153). -/
  | txStartClockwise (channel : Byte)
  /-- `START_COUNTER_CLOCKWISE`, transmitted (R154). -/
  | txStartCounterClockwise (channel : Byte)
  /-- `START_AUTO_SWITCHER`, transmitted (46_encode_auto_switcher.md R160). -/
  | txStartAutoSwitcher (channel : Byte) (offTime onTime : Half) (count : Word)
  /-- `SET_MODULE_ID_DATA`, transmitted (47_encode_module_id.md R165, R166). -/
  | txSetModuleIdData (moduleId : Byte) (data : Vector Byte moduleDataMax) (len : Byte)
  /-- `GET_MODULE_ID_DATA`, the request, transmitted (R170). -/
  | txGetModuleIdData (moduleId reqLen : Byte)
  deriving DecidableEq, Repr

/-- The operand record of the request port (30_encoding.md R63). DESIGN CHOICE (log entry 10, safe): the port
carries every operand of every command, and a command takes the ones R63 lists for its `op`. -/
structure Args where
  channel : Byte
  offTime : Half
  onTime : Half
  count : Word
  moduleId : Byte
  data : Vector Byte moduleDataMax
  len : Byte
  reqLen : Byte
  deriving DecidableEq, Repr

/-- The operand record whose every field is zero. -/
def Args.zero : Args where
  channel := 0
  offTime := 0
  onTime := 0
  count := 0
  moduleId := 0
  data := Vector.replicate moduleDataMax 0
  len := 0
  reqLen := 0

/-- What stands for an instruction's words: the bytes of a received frame, or a transmit request (R63). -/
inductive Packet where
  | frame (bytes : List Byte)
  | request (op : Byte) (args : Args)
  deriving DecidableEq, Repr

end Sys2Proof
end

