-- ==== Sys2Proof/WellFormed.lean ====
section
/-! DEFINITION. Which terms of `Instr` stand for an instruction under a choice of the parameters. -/

namespace Sys2Proof

/-- `UNKNOWN` is a header byte that is none of the seven opcodes (43_decode_ignored.md R133). Every other
constructor is an instruction at every value of its operands: R63 gives each operand the width of the field it
fills, and 44_encode_common.md R147 leaves every value of that width unchecked. An over-long `len` or `reqLen`
is a legal encoding whose execution fails (47_encode_module_id.md R167, R171). -/
def WellFormed (c : Config) : Instr → Bool
  | .rxUnknown header => decide (header ∉ c.opcodes)
  | .rxData8 => true
  | .rxData16 => true
  | .rxData32 => true
  | .rxDataRsv => true
  | .rxGetModuleIdData => true
  | .rxStop => true
  | .rxStartClockwise => true
  | .rxStartCounterClockwise => true
  | .rxStartAutoSwitcher => true
  | .rxSetModuleIdData => true
  | .txStop _ => true
  | .txStartClockwise _ => true
  | .txStartCounterClockwise _ => true
  | .txStartAutoSwitcher _ _ _ _ => true
  | .txSetModuleIdData _ _ _ => true
  | .txGetModuleIdData _ _ => true

end Sys2Proof
end

