-- ==== Sys2Proof/Decode.lean ====
section
/-! DEFINITION. The header switch of the decoder and the `op` dispatch of the encoder as one total decoder, the
encoder back to a packet, the rows of spec/opcode_table.json as data, and the host's two ways to name an
instruction by a number. -/

namespace Sys2Proof

/-! ## Fields -/

/-- The width tag `flags[1:0]` (30_encoding.md R57). -/
def tagOf (flags : Byte) : BitVec 2 := flags.extractLsb' 0 2

/-- The `n` bytes of an unsigned value, least significant first: byte `k` is `(v div 256^k) mod 256`
(20_memory.md R36). -/
def leBytes (n v : Nat) : List Byte :=
  (List.range n).map fun k => BitVec.ofNat 8 (v / 256 ^ k % 256)

/-! ## Decoding -/

/-- Why a packet names no instruction. -/
inductive DecodeError where
  /-- A received buffer of size 0 has no header (40_decode_dispatch.md R82). -/
  | emptyFrame
  /-- A `DATA` frame that ends before its `flags` byte has no tag (41_decode_data.md R100, `size < 3`). -/
  | flagsMissing
  /-- A request whose `op` is `OP_DATA` or no opcode (44_encode_common.md R142). -/
  | noTxPath
  deriving DecidableEq, Repr

/-- The `DATA` row a tag selects (30_encoding.md R57). -/
def dataInstr (tag : BitVec 2) : Instr :=
  if tag = 0 then .rxData8
  else if tag = 1 then .rxData16
  else if tag = 2 then .rxData32
  else .rxDataRsv

/-- The header switch (40_decode_dispatch.md R84), with the tag of a `DATA` frame read as R100 does first.
`bytes` are the received bytes, offset 0 first. -/
def decodeFrame (c : Config) (bytes : List Byte) : Except DecodeError Instr :=
  match bytes[0]? with
  | none => .error .emptyFrame
  | some h =>
    if h = c.opGetModuleIdData then .ok .rxGetModuleIdData
    else if h = c.opData then
      match bytes[2]? with
      | none => .error .flagsMissing
      | some flags => .ok (dataInstr (tagOf flags))
    else if h = c.opStop then .ok .rxStop
    else if h = c.opStartClockwise then .ok .rxStartClockwise
    else if h = c.opStartCounterClockwise then .ok .rxStartCounterClockwise
    else if h = c.opStartAutoSwitcher then .ok .rxStartAutoSwitcher
    else if h = c.opSetModuleIdData then .ok .rxSetModuleIdData
    else .ok (.rxUnknown h)

/-- The dispatch on `op` (44_encode_common.md R141), taking the operands R63 lists for it. -/
def decodeRequest (c : Config) (op : Byte) (a : Args) : Except DecodeError Instr :=
  if op = c.opStop then .ok (.txStop a.channel)
  else if op = c.opStartClockwise then .ok (.txStartClockwise a.channel)
  else if op = c.opStartCounterClockwise then .ok (.txStartCounterClockwise a.channel)
  else if op = c.opStartAutoSwitcher then
    .ok (.txStartAutoSwitcher a.channel a.offTime a.onTime a.count)
  else if op = c.opSetModuleIdData then .ok (.txSetModuleIdData a.moduleId a.data a.len)
  else if op = c.opGetModuleIdData then .ok (.txGetModuleIdData a.moduleId a.reqLen)
  else .error .noTxPath

/-- The decoder, total on every packet. -/
def decode (c : Config) : Packet → Except DecodeError Instr
  | .frame bytes => decodeFrame c bytes
  | .request op args => decodeRequest c op args

/-! ## Encoding -/

/-- A whole frame (30_encoding.md R50) whose header and `flags` bytes are given and whose other bytes, which
only the meaning reads, are zero. -/
def keyFrame (header flags : Byte) : List Byte :=
  [header, 0, flags] ++ List.replicate (frameSize - 3) 0

/-- The words of an instruction, from 30_encoding.md R52, R57 and R63: for a receive row the frame with its
header and tag (operand bytes zero), for a transmit row the request with its `op` and operands (unused port
fields zero). -/
def encode (c : Config) : Instr → Packet
  | .rxData8 => .frame (keyFrame c.opData 0)
  | .rxData16 => .frame (keyFrame c.opData 1)
  | .rxData32 => .frame (keyFrame c.opData 2)
  | .rxDataRsv => .frame (keyFrame c.opData 3)
  | .rxGetModuleIdData => .frame (keyFrame c.opGetModuleIdData 0)
  | .rxStop => .frame (keyFrame c.opStop 0)
  | .rxStartClockwise => .frame (keyFrame c.opStartClockwise 0)
  | .rxStartCounterClockwise => .frame (keyFrame c.opStartCounterClockwise 0)
  | .rxStartAutoSwitcher => .frame (keyFrame c.opStartAutoSwitcher 0)
  | .rxSetModuleIdData => .frame (keyFrame c.opSetModuleIdData 0)
  | .rxUnknown header => .frame (keyFrame header 0)
  | .txStop channel => .request c.opStop { Args.zero with channel }
  | .txStartClockwise channel => .request c.opStartClockwise { Args.zero with channel }
  | .txStartCounterClockwise channel => .request c.opStartCounterClockwise { Args.zero with channel }
  | .txStartAutoSwitcher channel offTime onTime count =>
    .request c.opStartAutoSwitcher { Args.zero with channel, offTime, onTime, count }
  | .txSetModuleIdData moduleId data len =>
    .request c.opSetModuleIdData { Args.zero with moduleId, data, len }
  | .txGetModuleIdData moduleId reqLen =>
    .request c.opGetModuleIdData { Args.zero with moduleId, reqLen }

/-! ## The machine-readable table -/

/-- A receive row of opcode_table.json: it matches a key when `key AND mask = value` (30_encoding.md R64). -/
structure TableRow where
  instr : Instr
  mask : BitVec 24
  value : BitVec 24
  deriving DecidableEq, Repr

/-- The ten receive rows before the catch-all, with the `match` and `mask` numbers of opcode_table.json, which
are those of the default parameters (R64). -/
def receiveRows : List TableRow :=
  [⟨.rxData8, 0x0300FF, 0x000000⟩, ⟨.rxData16, 0x0300FF, 0x010000⟩,
   ⟨.rxData32, 0x0300FF, 0x020000⟩, ⟨.rxDataRsv, 0x0300FF, 0x030000⟩,
   ⟨.rxGetModuleIdData, 0x0000FF, 0x000007⟩, ⟨.rxStop, 0x0000FF, 0x000001⟩,
   ⟨.rxStartClockwise, 0x0000FF, 0x000002⟩, ⟨.rxStartCounterClockwise, 0x0000FF, 0x000003⟩,
   ⟨.rxStartAutoSwitcher, 0x0000FF, 0x000004⟩, ⟨.rxSetModuleIdData, 0x0000FF, 0x000006⟩]

/-- The key `K = B0 + 256*B1 + 65536*B2` of the first three frame bytes (R64). -/
def frameKey (b0 b1 b2 : Byte) : BitVec 24 :=
  BitVec.ofNat 24 (b0.toNat + 256 * b1.toNat + 65536 * b2.toNat)

/-- Whether a row matches a key (R64). -/
def TableRow.hits (r : TableRow) (key : BitVec 24) : Bool := decide (key &&& r.mask = r.value)

/-- The instruction the table gives a frame: the first row that matches, or the `UNKNOWN` row, which is "to be
tried after all others" (R64). -/
def tableInstr (b0 b1 b2 : Byte) : Instr :=
  match receiveRows.find? fun r => r.hits (frameKey b0 b1 b2) with
  | some r => r.instr
  | none => .rxUnknown b0

/-! ## Instructions as numbers, for the host -/

/-- The packet whose bits are `w`, numbered as opcode_table.json numbers them (log entry 12). A transmit row's
bits are the 8-bit `op` (R64), so a number of at most 8 bits that is a transmittable `op` is a request with zero
operands. Any other number is a whole 64-byte frame, offset 0 least significant: a receive row's key is the
frame's first three bytes. -/
def packetOfWord (nbits w : Nat) : Packet :=
  let frame := Packet.frame (leBytes frameSize w)
  if nbits ≤ 8 then
    let request := Packet.request (BitVec.ofNat 8 w) Args.zero
    match decode Config.default request with
    | .ok _ => request
    | .error _ => frame
  else frame

/-- What the decoder reads from the table word `w`, under the default parameters the table is written with. -/
def decodeTableWord (nbits w : Nat) : Option Instr :=
  match decode Config.default (packetOfWord nbits w) with
  | .ok i => some i
  | .error _ => none

end Sys2Proof
end

