-- ==== Sys2Proof/Machine/State.lean ====
section
/-! DEFINITION. The state of one codec instance (spec/10_state.md R10), what the environment presents to it and
has been handed by it, and the state after reset. -/

namespace Sys2Proof.Machine

/-- A frame register (10_state.md R19, R20, R25): the offsets that hold a value, strictly rising, each with its
byte. An offset that is not listed holds no value. -/
abbrev Memory := List Host.Cell

/-- The events, one kind per sink (10_state.md R15). -/
inductive Event where
  | data8 (channel : Byte) (elems : List Byte)
  | data16 (channel : Byte) (elems : List Half)
  | dataNum (channel : Byte) (elems : List F64)
  | coldPaletteModuleData (bytes : List Byte)
  | rgbCapModuleData (bytes : List Byte)
  deriving DecidableEq, Repr

/-- The five event sinks (10_state.md R15). -/
inductive Sink where
  | data8
  | data16
  | dataNum
  | coldPalette
  | rgbCap
  deriving DecidableEq, Repr

/-- One thing the environment does to the block (10_state.md R12). -/
inductive Transaction where
  /-- A receive transaction `DEC(buf, size)` (R13). `buf` may hold more than `size` bytes. -/
  | dec (buf : List Byte) (size : Word)
  /-- A transmit request `ENC(op, args)` (R14). -/
  | enc (op : Byte) (args : Args)
  /-- Reset (70_reset_and_hazards.md R210). -/
  | reset
  deriving DecidableEq, Repr

/-- No fault: nothing stops the block. What the spec calls a failure is the result of a transaction, after
which the block is ready for the next one (60_exceptions.md R180, R191), and is a next state here. -/
inductive Fault where
  deriving DecidableEq, Repr

/-- Why a step has no result. -/
inductive Refusal where
  /-- Raised only by an arm of `exec` for an instruction that has no meaning yet. Safe. -/
  | notModelled (mnemonic : String)
  /-- Raised by the front end for `DEC(buf, size)` with `size <= FRAME_SIZE` and fewer than `size` bytes in
  `buf`: "a model refuses such a transaction (it has no step and no result)" (70_reset_and_hazards.md R221).
  Safe. -/
  | bufferShorterThanSize
  deriving DecidableEq, Repr

/-- The whole state. R10 makes `rxf`, `rxsize`, `dstat`, `txf` and `estat` the block's; `cfg` is fixed (R28) and
is here because `step` takes nothing but a state (log entry 3); `inputs`, `events` and `frames` are the model's
own record of the ports (log entries 4 and 5). -/
structure State where
  /-- The OPEN parameters (00_scope.md R6). No step changes them. -/
  cfg : Config
  /-- `RXF` (R19). -/
  rxf : Memory
  /-- `RXSIZE` (R19); `none` when it holds no value, as after `E_TOO_LARGE` (40_decode_dispatch.md R81). -/
  rxsize : Option Nat
  /-- `DSTAT` (R21). -/
  dstat : Byte
  /-- `TXF` (R20). -/
  txf : Memory
  /-- `ESTAT` (R22). -/
  estat : Byte
  /-- Transactions presented and not yet run, next first (R12, R18). -/
  inputs : List Transaction
  /-- Events handed to the sinks, oldest first (R15). -/
  events : List Event
  /-- Frames handed to the transmit port, oldest first (R16). -/
  frames : List (List Byte)
  deriving DecidableEq, Repr

/-- The state after reset (10_state.md R27, 70_reset_and_hazards.md R210): `RXSIZE` 0, `DSTAT` and `ESTAT` 0x00,
`RXF` and `TXF` without value, nothing pending, emitted or sent. DESIGN CHOICE: the parameters at the spec's
defaults (log entries 1 to 3), no transaction presented (log entry 4), nothing handed over yet (log entry 5). -/
def State.reset : State where
  cfg := Config.default
  rxf := []
  rxsize := some 0
  dstat := 0
  txf := []
  estat := 0
  inputs := []
  events := []
  frames := []

end Sys2Proof.Machine
end

