-- ==== Sys2Proof/Machine/Flags.lean ====
section
/-! DEFINITION. The status registers: their codes and how a code and the `OK` bit are packed (spec/10_state.md
R21 to R23). The block has no other flag. -/

namespace Sys2Proof.Machine

/-- The `CODE` values of `DSTAT` (R21). -/
inductive DecCode where
  | idle
  | emitted
  | ignOpcode
  | ignNoRxPath
  | ignModule
  | ignTag
  | eTooLarge
  | eLenBounds
  | eShort
  deriving DecidableEq, Repr

/-- The `CODE` values of `ESTAT` (R22). -/
inductive EncCode where
  | idle
  | sent
  | eLenBounds
  | eNoTxPath
  deriving DecidableEq, Repr

/-- The numbers of R21's table. -/
def decNumber : DecCode → BitVec 4
  | .idle => 0
  | .emitted => 1
  | .ignOpcode => 2
  | .ignNoRxPath => 3
  | .ignModule => 4
  | .ignTag => 5
  | .eTooLarge => 8
  | .eLenBounds => 9
  | .eShort => 10

/-- The numbers of R22's table. -/
def encNumber : EncCode → BitVec 4
  | .idle => 0
  | .sent => 1
  | .eLenBounds => 9
  | .eNoTxPath => 11

/-- A status register: bits 7:5 zero, `OK` in bit 4, `CODE` in bits 3:0 (R21, R22). -/
def statusByte (ok : Bool) (code : BitVec 4) : Byte := 0#3 ++ BitVec.ofBool ok ++ code

/-- The value of `DSTAT` with the given `OK` and `CODE` (R21). -/
def dstatByte (ok : Bool) (c : DecCode) : Byte := statusByte ok (decNumber c)

/-- The value of `ESTAT` with the given `OK` and `CODE` (R22). -/
def estatByte (ok : Bool) (c : EncCode) : Byte := statusByte ok (encNumber c)

/-- The `OK` bit of a status register (R21, R22). -/
def statusOk (status : Byte) : Bool := status.getLsbD 4

/-- The `CODE` field of a status register (R21, R22). -/
def statusCode (status : Byte) : BitVec 4 := status.extractLsb' 0 4

end Sys2Proof.Machine
end

