-- ==== Sys2Proof/Machine/Ops.lean ====
section
/-! DEFINITION. The shared operations: a frame register as memory, loading a received frame, building and
sending a frame, ending a transaction with success or failure, and reset. -/

namespace Sys2Proof.Machine

/-! ## A frame register as memory -/

/-- The byte at an offset; `none` when the offset holds no value. -/
def Memory.read : Memory → Nat → Option Byte
  | [], _ => none
  | (a, b) :: m, k => if a = k then some b else Memory.read m k

/-- The memory with one byte written. An unlisted offset holds no value, so a write never removes an entry. -/
def Memory.write : Memory → Nat → Byte → Memory
  | [], k, b => [(k, b)]
  | (a, c) :: m, k, b =>
    if k < a then (k, b) :: (a, c) :: m
    else if k = a then (k, b) :: m
    else (a, c) :: Memory.write m k b

/-- The memory with a run of bytes written from offset `k` up (20_memory.md R37). -/
def Memory.writeRun : Memory → Nat → List Byte → Memory
  | m, _, [] => m
  | m, k, b :: bs => Memory.writeRun (Memory.write m k b) (k + 1) bs

/-- The run of `n` bytes from offset `k` up; `none` when one of them holds no value. -/
def Memory.readRun (m : Memory) (k : Nat) : Nat → Option (List Byte)
  | 0 => some []
  | n + 1 =>
    match Memory.read m k, Memory.readRun m (k + 1) n with
    | some b, some bs => some (b :: bs)
    | _, _ => none

/-- The memory that lists exactly the given bytes, the first at offset `k`. -/
def Memory.ofBytes (k : Nat) : List Byte → Memory
  | [] => []
  | b :: bs => (k, b) :: Memory.ofBytes (k + 1) bs

/-- Whether offsets rise strictly from more than `k`, or from `k` itself, and stay inside the frame. -/
def Memory.risingFrom (k : Nat) : Memory → Bool
  | [] => true
  | (a, _) :: m => decide (k ≤ a) && decide (a < frameSize) && Memory.risingFrom (a + 1) m

/-- The canonical form: offsets strictly rising, each one an offset of a frame register (10_state.md R25). No
entry equals what an unlisted offset reads as, since that is no value. -/
def Memory.wf (m : Memory) : Bool := Memory.risingFrom 0 m

/-! ## The receive side -/

/-- Load step (20_memory.md R31): `RXSIZE <- size` and `RXF[i] <- buf[i]` for every `i` below it. The other
offsets hold no value (10_state.md R19). `bytes` are the `size` bytes offered. -/
def load (bytes : List Byte) (s : State) : State :=
  { s with rxf := Memory.ofBytes 0 bytes, rxsize := some bytes.length }

/-- Nothing is loaded: `RXF` and `RXSIZE` are left holding no value (40_decode_dispatch.md R81). -/
def unload (s : State) : State := { s with rxf := [], rxsize := none }

/-- Writes `DSTAT`. -/
def setDstat (ok : Bool) (c : DecCode) (s : State) : State :=
  { s with dstat := dstatByte ok c }

/-- `emit`: hands one event to its sink (10_state.md R15, 00_scope.md R8). -/
def emit (e : Event) (s : State) : State := { s with events := s.events ++ [e] }

/-- `done c` of a `DEC`: `DSTAT <- (OK = 1, CODE = c)` (40_decode_dispatch.md R85). -/
def doneDec (c : DecCode) (s : State) : State := setDstat true c s

/-- `fail c` of a `DEC`, the block's exception entry on the receive side: no event, `DSTAT <- (OK = 0, CODE = c)`,
nothing else changes (60_exceptions.md R186). There is no return from it (R191). -/
def failDec (c : DecCode) (s : State) : State := setDstat false c s

/-- How an opcode's rule ends with success: it emits one event, or it ignores the frame under a code. -/
inductive DecDone where
  | event (e : Event)
  | ignored (c : DecCode)
  deriving DecidableEq, Repr

/-- The end of a `DEC` (40_decode_dispatch.md R85, R86): the event, if any, then `DSTAT`; a failure emits
nothing. -/
def finishDec (r : Except DecCode DecDone) (s : State) : State :=
  match r with
  | .ok (.event e) => doneDec .emitted (emit e s)
  | .ok (.ignored c) => doneDec c s
  | .error c => failDec c s

/-- Which sink takes an event (10_state.md R15, 60_exceptions.md R194). -/
def sinkOf : Event → Sink
  | .data8 _ _ => .data8
  | .data16 _ _ => .data16
  | .dataNum _ _ => .dataNum
  | .coldPaletteModuleData _ => .coldPalette
  | .rgbCapModuleData _ => .rgbCap

/-- What one sink has been handed, oldest first. -/
def received (k : Sink) (s : State) : List Event := s.events.filter fun e => sinkOf e = k

/-! ## The transmit side -/

/-- Zeroes the frame (44_encode_common.md R143 step 2). -/
def zeroFrame (s : State) : State :=
  { s with txf := Memory.ofBytes 0 (List.replicate frameSize 0) }

/-- `WrB(off, v)` (20_memory.md R35). -/
def wrB (off : Nat) (v : Byte) (s : State) : State := { s with txf := s.txf.write off v }

/-- `WrBytes(off, bytes)` (20_memory.md R37). -/
def wrBytes (off : Nat) (bytes : List Byte) (s : State) : State :=
  { s with txf := s.txf.writeRun off bytes }

/-- `WrLE(off, n, v)` (20_memory.md R36). -/
def wrLE (off n v : Nat) (s : State) : State := wrBytes off (leBytes n v) s

/-- The bytes of a frame register in offset order (10_state.md R16). -/
def frameBytes (m : Memory) : List Byte := (List.range frameSize).filterMap m.read

/-- Writes `ESTAT`. -/
def setEstat (ok : Bool) (c : EncCode) (s : State) : State :=
  { s with estat := estatByte ok c }

/-- `send(TXF); done SENT`: hands a copy of the frame to the transmit port and writes `ESTAT`
(44_encode_common.md R143 steps 5 and 6). -/
def sendDone (s : State) : State :=
  setEstat true .sent { s with frames := s.frames ++ [frameBytes s.txf] }

/-- `fail c` of an `ENC`, the block's exception entry on the transmit side: no frame, `ESTAT <- (OK = 0,
CODE = c)`, and `TXF` holds no value (60_exceptions.md R187, 44_encode_common.md R146). -/
def failEnc (c : EncCode) (s : State) : State := setEstat false c { s with txf := [] }

/-! ## Reset -/

/-- Reset applied by the environment (70_reset_and_hazards.md R210): the block's registers take their reset
values, the parameters stay, nothing is emitted or sent; what was handed over before stays handed over, and the
transactions still to come stay (log entry 11). -/
def applyReset (s : State) : State :=
  { s with rxf := State.reset.rxf, rxsize := State.reset.rxsize, dstat := State.reset.dstat,
           txf := State.reset.txf, estat := State.reset.estat }

end Sys2Proof.Machine
end

