-- ==== Sys2Proof/Machine/Operands.lean ====
section
/-! DEFINITION. The operand forms of the receive side: the bounds-checked reads of spec/20_memory.md R32 to R34
and the values built from them (41_decode_data.md R106, R112). Every operand of a transmit row is a field of the
request and needs no form of its own. -/

namespace Sys2Proof.Machine

/-- `RdB(off)` (20_memory.md R32). DESIGN CHOICE (log entry 8, only in states no run reaches): an offset below
`RXSIZE` that holds no value, or an `RXSIZE` that holds none, fails the same way; R19 has the primitives "fail the
transaction with `E_SHORT` instead of reading such a byte". -/
def rdB (s : State) (off : Nat) : Except DecCode Byte :=
  match s.rxsize with
  | none => .error .eShort
  | some size =>
    if size ≤ off then .error .eShort
    else
      match s.rxf.read off with
      | some b => .ok b
      | none => .error .eShort

/-- `RdBytes(off, n)` (20_memory.md R34): the check covers the whole run before any byte is read. -/
def rdBytes (s : State) (off n : Nat) : Except DecCode (List Byte) :=
  match s.rxsize with
  | none => .error .eShort
  | some size =>
    if size < off + n then .error .eShort
    else
      match s.rxf.readRun off n with
      | some bs => .ok bs
      | none => .error .eShort

/-- The unsigned value of a run of bytes, least significant first (20_memory.md R33, R38). -/
def leValue : List Byte → Nat
  | [] => 0
  | b :: bs => b.toNat + 256 * leValue bs

/-- `RdLE(off, n)` (20_memory.md R33): one check for the whole value, then the little-endian sum. -/
def rdLE (s : State) (off n : Nat) : Except DecCode Nat :=
  match rdBytes s off n with
  | .ok bs => .ok (leValue bs)
  | .error c => .error c

/-- The `n` elements of `es` bytes each in a run of data bytes: element `j` is the little-endian value of bytes
`es*j` to `es*j + es - 1` (41_decode_data.md R100, R112). -/
def elements (es n : Nat) (raw : List Byte) : List Nat :=
  (List.range n).map fun j => leValue ((raw.drop (es * j)).take es)

/-- `u32_to_f64(v)`: the binary64 bit pattern equal to `v`, for `v < 2^32` (41_decode_data.md R106). -/
def u32ToF64 (v : Nat) : F64 :=
  if v = 0 then 0
  else
    let e := Nat.log2 v
    BitVec.ofNat 64 ((1023 + e) * 2 ^ 52 + (v - 2 ^ e) * 2 ^ (52 - e))

/-- The bytes of the received frame, for the header switch. -/
def receivedBytes (s : State) : List Byte :=
  match s.rxsize with
  | none => []
  | some size => (List.range size).filterMap s.rxf.read

end Sys2Proof.Machine
end

