-- ==== Sys2Proof/Machine/ReceiveData.lean ====
section
/-! DEFINITION. `DATA` as received (spec/41_decode_data.md): the width-tag-driven array reinterpreter. -/

namespace Sys2Proof.Machine

/-- `DecodeData()` after the tag has been found to be 0, 1 or 2 (R100), for element size `es`: the channel byte,
unmasked (R107), and the `count div es` elements (R101), read by one check of the whole run (R108). -/
def dataFields (es : Nat) (s : State) : Except DecCode (Byte × List Nat) := do
  let _flags ← rdB s 2
  let channel ← rdB s 1
  let count ← rdLE s 3 2
  let n := count / es
  let raw ← rdBytes s dataOffset (es * n)
  return (channel, elements es n raw)

/-- `DATA.8` (R102): unsigned 8-bit elements, `Data8` on its sink. -/
def execRxData8 (s : State) : Host.Outcome State Fault Refusal :=
  .next (finishDec
    ((dataFields 1 s).map fun f => .event (.data8 f.1 (f.2.map (BitVec.ofNat 8)))) s)

/-- `DATA.16` (R103, R111): `count div 2` unsigned 16-bit little-endian elements, `Data16` on its sink. -/
def execRxData16 (s : State) : Host.Outcome State Fault Refusal :=
  .next (finishDec
    ((dataFields 2 s).map fun f => .event (.data16 f.1 (f.2.map (BitVec.ofNat 16)))) s)

/-- `DATA.32` (R104): `count div 4` unsigned 32-bit little-endian elements widened to binary64, `DataNum` on its
sink. -/
def execRxData32 (s : State) : Host.Outcome State Fault Refusal :=
  .next (finishDec ((dataFields 4 s).map fun f => .event (.dataNum f.1 (f.2.map u32ToF64))) s)

/-- `DATA.RSV` (R105): nothing but `flags` is read; ignored with success. -/
def execRxDataRsv (s : State) : Host.Outcome State Fault Refusal :=
  .next (finishDec ((rdB s 2).map fun _ => .ignored .ignTag) s)

end Sys2Proof.Machine
end

