-- ==== Sys2Proof/Machine/ReceiveIgnored.lean ====
section
/-! DEFINITION. Received opcodes without a receive path, and unknown headers (spec/43_decode_ignored.md): no byte
of the payload is read, nothing is emitted, and the transaction succeeds. -/

namespace Sys2Proof.Machine

/-- `done <code>` with no event and no read. -/
def ignoreFrame (c : DecCode) (s : State) : State := finishDec (.ok (.ignored c)) s

/-- `STOP` as received (R131). -/
def execRxStop (s : State) : Host.Outcome State Fault Refusal :=
  .next (ignoreFrame .ignNoRxPath s)

/-- `START_CLOCKWISE` as received (R131). -/
def execRxStartClockwise (s : State) : Host.Outcome State Fault Refusal :=
  .next (ignoreFrame .ignNoRxPath s)

/-- `START_COUNTER_CLOCKWISE` as received (R131). -/
def execRxStartCounterClockwise (s : State) : Host.Outcome State Fault Refusal :=
  .next (ignoreFrame .ignNoRxPath s)

/-- `START_AUTO_SWITCHER` as received (R131). -/
def execRxStartAutoSwitcher (s : State) : Host.Outcome State Fault Refusal :=
  .next (ignoreFrame .ignNoRxPath s)

/-- `SET_MODULE_ID_DATA` as received (R132): `dataLen` is not read and not validated. -/
def execRxSetModuleIdData (s : State) : Host.Outcome State Fault Refusal :=
  .next (ignoreFrame .ignNoRxPath s)

/-- `UNKNOWN` (R133). -/
def execRxUnknown (s : State) : Host.Outcome State Fault Refusal :=
  .next (ignoreFrame .ignOpcode s)

end Sys2Proof.Machine
end

