-- ==== Sys2Proof/Machine/ReceiveModule.lean ====
section
/-! DEFINITION. `GET_MODULE_ID_DATA` as received (spec/42_decode_module_id.md). -/

namespace Sys2Proof.Machine

/-- `DecodeGetModuleIdData()` (R121), in the order of R122: length bound, presence of the data, module
dispatch. -/
def moduleReply (s : State) : Except DecCode DecDone := do
  let dataLen ← rdB s 2
  if moduleDataMax < dataLen.toNat then .error .eLenBounds
  else
    let bytes ← rdBytes s moduleDataOffset dataLen.toNat
    let moduleId ← rdB s 1
    if moduleId = modIdColdPalette then return .event (.coldPaletteModuleData bytes)
    else if moduleId = s.cfg.modIdRgbCap then return .event (.rgbCapModuleData bytes)
    else return .ignored .ignModule

/-- `GET_MODULE_ID_DATA` as received (R121). -/
def execRxGetModuleIdData (s : State) : Host.Outcome State Fault Refusal :=
  .next (finishDec (moduleReply s) s)

end Sys2Proof.Machine
end

