-- ==== Sys2Proof/Machine/SendAutoSwitcher.lean ====
section
/-! DEFINITION. `START_AUTO_SWITCHER` as transmitted (spec/46_encode_auto_switcher.md). -/

namespace Sys2Proof.Machine

/-- `EncAutoSwitcher(args)` (R160), without padding (R161). -/
def execTxStartAutoSwitcher (channel : Byte) (offTime onTime : Half) (count : Word) (s : State) :
    Host.Outcome State Fault Refusal :=
  .next
    (sendDone
      (wrLE 6 4 count.toNat
        (wrLE 4 2 onTime.toNat
          (wrLE 2 2 offTime.toNat
            (wrB 1 channel (wrB 0 s.cfg.opStartAutoSwitcher (zeroFrame s)))))))

end Sys2Proof.Machine
end

