-- ==== Sys2Proof/Machine/SendChannel.lean ====
section
/-! DEFINITION. `STOP`, `START_CLOCKWISE` and `START_COUNTER_CLOCKWISE` as transmitted
(spec/45_encode_channel.md). -/

namespace Sys2Proof.Machine

/-- `EncChannel(opc, args)` (R150): the channel byte is written unchanged (R151). -/
def encChannel (opc channel : Byte) (s : State) : State :=
  sendDone (wrB 1 channel (wrB 0 opc (zeroFrame s)))

/-- `STOP` as transmitted (R152). -/
def execTxStop (channel : Byte) (s : State) : Host.Outcome State Fault Refusal :=
  .next (encChannel s.cfg.opStop channel s)

/-- `START_CLOCKWISE` as transmitted (R153). -/
def execTxStartClockwise (channel : Byte) (s : State) : Host.Outcome State Fault Refusal :=
  .next (encChannel s.cfg.opStartClockwise channel s)

/-- `START_COUNTER_CLOCKWISE` as transmitted (R154). -/
def execTxStartCounterClockwise (channel : Byte) (s : State) : Host.Outcome State Fault Refusal :=
  .next (encChannel s.cfg.opStartCounterClockwise channel s)

end Sys2Proof.Machine
end

