-- ==== Sys2Proof/Machine/SendModule.lean ====
section
/-! DEFINITION. `SET_MODULE_ID_DATA` and the `GET_MODULE_ID_DATA` request as transmitted
(spec/47_encode_module_id.md). -/

namespace Sys2Proof.Machine

/-- `EncSetModuleIdData(args)` (R166): an over-long `len` fails before the frame is touched (R167). -/
def execTxSetModuleIdData (moduleId : Byte) (data : Vector Byte moduleDataMax) (len : Byte)
    (s : State) : Host.Outcome State Fault Refusal :=
  if moduleDataMax < len.toNat then .next (failEnc .eLenBounds s)
  else
    .next
      (sendDone
        (wrBytes moduleDataOffset (data.toList.take len.toNat)
          (wrB 2 len (wrB 1 moduleId (wrB 0 s.cfg.opSetModuleIdData (zeroFrame s))))))

/-- `EncGetModuleIdData(args)` (R170): an over-long `reqLen` fails (R171); no data is copied. -/
def execTxGetModuleIdData (moduleId reqLen : Byte) (s : State) :
    Host.Outcome State Fault Refusal :=
  if moduleDataMax < reqLen.toNat then .next (failEnc .eLenBounds s)
  else
    .next
      (sendDone (wrB 2 reqLen (wrB 1 moduleId (wrB 0 s.cfg.opGetModuleIdData (zeroFrame s)))))

end Sys2Proof.Machine
end

