-- ==== Sys2Proof/Machine/Dispatch.lean ====
section
/-! DEFINITION. The meaning of every instruction, one arm per constructor of `Instr`. -/

namespace Sys2Proof.Machine

/-- What an instruction does to a state. For a receive row the frame is already loaded in RXF. -/
def exec (i : Instr) (s : State) : Host.Outcome State Fault Refusal :=
  match i with
  | .rxData8 => Sys2Proof.Machine.execRxData8 s
  | .rxData16 => Sys2Proof.Machine.execRxData16 s
  | .rxData32 => Sys2Proof.Machine.execRxData32 s
  | .rxDataRsv => Sys2Proof.Machine.execRxDataRsv s
  | .rxGetModuleIdData => Sys2Proof.Machine.execRxGetModuleIdData s
  | .rxStop => Sys2Proof.Machine.execRxStop s
  | .rxStartClockwise => Sys2Proof.Machine.execRxStartClockwise s
  | .rxStartCounterClockwise => Sys2Proof.Machine.execRxStartCounterClockwise s
  | .rxStartAutoSwitcher => Sys2Proof.Machine.execRxStartAutoSwitcher s
  | .rxSetModuleIdData => Sys2Proof.Machine.execRxSetModuleIdData s
  | .rxUnknown _ => Sys2Proof.Machine.execRxUnknown s
  | .txStop channel => Sys2Proof.Machine.execTxStop channel s
  | .txStartClockwise channel => Sys2Proof.Machine.execTxStartClockwise channel s
  | .txStartCounterClockwise channel => Sys2Proof.Machine.execTxStartCounterClockwise channel s
  | .txStartAutoSwitcher channel offTime onTime count => Sys2Proof.Machine.execTxStartAutoSwitcher channel offTime onTime count s
  | .txSetModuleIdData moduleId data len => Sys2Proof.Machine.execTxSetModuleIdData moduleId data len s
  | .txGetModuleIdData moduleId reqLen => Sys2Proof.Machine.execTxGetModuleIdData moduleId reqLen s

end Sys2Proof.Machine
end

