-- ==== Sys2Proof/Machine/FrontEnd.lean ====
section
/-! DEFINITION. What every transaction does before an instruction's own rule takes over: the front end of `DEC`
(spec/40_decode_dispatch.md R80 to R84) and of `ENC` (spec/44_encode_common.md R141, R142). -/

namespace Sys2Proof.Machine

/-- A packet that names no instruction fails its transaction: a frame whose header or tag is absent with
`E_SHORT` (40_decode_dispatch.md R82, 60_exceptions.md R183), a request without a transmit path with
`E_NO_TX_PATH` (44_encode_common.md R142). -/
def failDecode (e : DecodeError) (s : State) : State :=
  match e with
  | .emptyFrame => failDec .eShort s
  | .flagsMissing => failDec .eShort s
  | .noTxPath => failEnc .eNoTxPath s

/-- Runs the instruction a packet names. -/
def runPacket (p : Packet) (s : State) : Host.Outcome State Fault Refusal :=
  match decode s.cfg p with
  | .ok i => exec i s
  | .error e => .next (failDecode e s)

/-- `DEC(buf, size)` (R84): size check, load, header switch and the opcode's own rule. A buffer with fewer than
`size` bytes has no result (70_reset_and_hazards.md R221); for `size > FRAME_SIZE` the buffer is not looked at
(R81). -/
def runDec (buf : List Byte) (size : Word) (s : State) : Host.Outcome State Fault Refusal :=
  if frameSize < size.toNat then .next (failDec .eTooLarge (unload s))
  else if buf.length < size.toNat then .refused .bufferShorterThanSize
  else
    let loaded := load (buf.take size.toNat) s
    runPacket (.frame (receivedBytes loaded)) loaded

/-- `ENC(op, args)` (44_encode_common.md R141). -/
def runEnc (op : Byte) (args : Args) (s : State) : Host.Outcome State Fault Refusal :=
  runPacket (.request op args) s

/-- One transaction, run to completion (10_state.md R11). -/
def runTransaction (t : Transaction) (s : State) : Host.Outcome State Fault Refusal :=
  match t with
  | .dec buf size => runDec buf size s
  | .enc op args => runEnc op args s
  | .reset => .next (applyReset s)

/-- The transaction that presents a packet: a whole frame as a receive transaction of its own length, a request
as a transmit request. -/
def presenting : Packet → Transaction
  | .frame bytes => .dec bytes (BitVec.ofNat 32 bytes.length)
  | .request op args => .enc op args

end Sys2Proof.Machine
end

