-- ==== Sys2Proof/Machine/Step.lean ====
section
/-! DEFINITION. One step of the machine, and how the host places an instruction where the next step takes it. -/

namespace Sys2Proof.Machine

/-- One step runs the next transaction the environment has presented, whole (10_state.md R11, R12). "With no
transaction presented it does nothing" (60_exceptions.md R206). -/
def step (s : State) : Host.Outcome State Fault Refusal :=
  match s.inputs with
  | [] => .next s
  | t :: rest => runTransaction t { s with inputs := rest }

/-- The environment presents the instruction whose bits are `w` as its next transaction (log entries 4 and
12). -/
def State.withFetchWord (s : State) (nbits w : Nat) : State :=
  { s with inputs := presenting (packetOfWord nbits w) :: s.inputs }

end Sys2Proof.Machine
end

