-- ==== Sys2Proof/Safety.lean ====
section
/-! DEFINITION. The terms the claims use: which half runs an instruction, what a loaded frame is, two steps in a
row, and the invariant of a run. -/

namespace Sys2Proof

/-- Whether an instruction is a receive row, run by the decoder; the others are run by the encoder
(spec/10_state.md R11). -/
def Instr.receives : Instr → Bool
  | .rxData8 => true
  | .rxData16 => true
  | .rxData32 => true
  | .rxDataRsv => true
  | .rxGetModuleIdData => true
  | .rxStop => true
  | .rxStartClockwise => true
  | .rxStartCounterClockwise => true
  | .rxStartAutoSwitcher => true
  | .rxSetModuleIdData => true
  | .rxUnknown _ => true
  | .txStop _ => false
  | .txStartClockwise _ => false
  | .txStartCounterClockwise _ => false
  | .txStartAutoSwitcher _ _ _ _ => false
  | .txSetModuleIdData _ _ _ => false
  | .txGetModuleIdData _ _ => false

end Sys2Proof

namespace Sys2Proof.Machine

/-- Two steps in a row; the first stop ends it. -/
def twoSteps (s : State) : Host.Outcome State Fault Refusal :=
  match step s with
  | .next t => step t
  | .fault r => .fault r
  | .refused r => .refused r

/-- The received frame in `RXF` is `f` (spec/10_state.md R19). -/
abbrev Loaded (s : State) (f : List Byte) : Prop :=
  s.rxf = Memory.ofBytes 0 f ∧ s.rxsize = some f.length ∧ f.length ≤ frameSize

/-- The longest sequences an event can carry (10_state.md R29). -/
def Event.bounded : Event → Bool
  | .data8 _ elems => decide (elems.length ≤ 59)
  | .data16 _ elems => decide (elems.length ≤ 29)
  | .dataNum _ elems => decide (elems.length ≤ 14)
  | .coldPaletteModuleData bytes => decide (bytes.length ≤ moduleDataMax)
  | .rgbCapModuleData bytes => decide (bytes.length ≤ moduleDataMax)

/-- `RXF` is canonical and lists exactly the offsets below `RXSIZE`, which is at most 64; when `RXSIZE` holds no
value neither does any byte of `RXF` (10_state.md R19, 40_decode_dispatch.md R81). -/
abbrev State.RxWf (s : State) : Prop :=
  s.rxf.wf = true ∧ s.rxsize.getD 0 ≤ frameSize ∧
  s.rxf.map Prod.fst = List.range (s.rxsize.getD 0)

/-- `TXF` is canonical and holds either no value or all 64 bytes (10_state.md R20). -/
abbrev State.TxWf (s : State) : Prop :=
  s.txf.wf = true ∧ (s.txf = [] ∨ s.txf.map Prod.fst = List.range frameSize)

/-- The only values the status registers take (10_state.md R21, R22). -/
abbrev State.StatusWf (s : State) : Prop :=
  s.dstat ∈ ([0x00, 0x11, 0x12, 0x13, 0x14, 0x15, 0x08, 0x09, 0x0A] : List Byte) ∧
  s.estat ∈ ([0x00, 0x11, 0x09, 0x0B] : List Byte)

/-- Every frame sent has 64 bytes and every event is within its bounds (10_state.md R16, R29). -/
abbrev State.PortsWf (s : State) : Prop :=
  (∀ f ∈ s.frames, f.length = frameSize) ∧ (∀ e ∈ s.events, e.bounded = true)

/-- The invariant of a run. -/
abbrev State.Inv (s : State) : Prop :=
  s.cfg.Legal ∧ s.RxWf ∧ s.TxWf ∧ s.StatusWf ∧ s.PortsWf

end Sys2Proof.Machine
end

