-- ==== Sys2Proof/Certificates/Slice0/Obligations.lean ====
section
/-! DEFINITION. The statements about the model. `dstatByte ok c` and `estatByte ok c` are the rules' `DSTAT` or
`ESTAT` `<- (OK = ok, CODE = c)`; the numbers behind the code names, which are the spec's own decision
(92_eei_decisions.md D12), stand in `StatusBytesHaveTheSpecNumbers`, in `ReceiveStatusFollowsPriority` and in the
invariant. A state written `{ s with … }` says that every other field is unchanged. -/

open Sys2Proof Sys2Proof.Machine

/-! ## Encoding -/

/-- Decoding the encoding of any well-formed instruction, under any legal choice of the parameters, gives it
back with every operand (30_encoding.md sections 2, 4, 6). -/
def Obligations.DecodeOfEncodeIsIdentity : Prop :=
  ∀ (c : Config) (i : Instr), c.Legal → WellFormed c i = true → decode c (encode c i) = .ok i

/-- On every frame that holds the three bytes of the key, the header switch names the instruction the
machine-readable table names: the first row with `key AND mask = match`, else `UNKNOWN` (30_encoding.md section 8;
the numbers are those of the default parameters, the spec's decision D1, log entry 1). -/
def Obligations.DecodeAgreesWithOpcodeTable : Prop :=
  ∀ (b0 b1 b2 : Byte) (rest : List Byte),
    decode Config.default (.frame (b0 :: b1 :: b2 :: rest)) = .ok (tableInstr b0 b1 b2)

/-- Whatever the packet, an instruction the decoder names is well-formed: `UNKNOWN` is named only for a header
outside the seven opcodes (43_decode_ignored.md). -/
def Obligations.DecodedInstructionIsWellFormed : Prop :=
  ∀ (c : Config) (p : Packet) (i : Instr), decode c p = .ok i → WellFormed c i = true

/-- A few frames and requests written out from the spec's layouts (95_test_vectors.md) decode to the instruction
they stand for. -/
def Obligations.SpecFramesDecode : Prop :=
  decode Config.default (.frame [0x00, 0x02, 0x00, 0x03, 0x00, 0x0A, 0x0B, 0x0C]) = .ok .rxData8 ∧
  decode Config.default (.frame [0x00, 0x85, 0xFD, 0x02, 0x00, 0x11, 0x22]) = .ok .rxData16 ∧
  decode Config.default (.frame [0x00, 0x07, 0xFF]) = .ok .rxDataRsv ∧
  decode Config.default (.frame [0x07, 0x01, 0x01, 0x99]) = .ok .rxGetModuleIdData ∧
  decode Config.default (.frame [0x05]) = .ok (.rxUnknown 0x05) ∧
  decode Config.default (.request 0x01 { Args.zero with channel := 3 }) = .ok (.txStop 3) ∧
  decode Config.default (.request 0x07 { Args.zero with moduleId := 0, reqLen := 20 })
    = .ok (.txGetModuleIdData 0 20)

/-! ## The step -/

/-- A receive transaction that passes the size check and whose bytes name an instruction runs that instruction,
on the state with the transaction taken off the queue and the bytes loaded (40_decode_dispatch.md sections 1,
2). -/
def Obligations.StepRunsReceivedInstruction : Prop :=
  ∀ (s : State) (buf : List Byte) (size : Word) (rest : List Transaction) (i : Instr),
    s.inputs = .dec buf size :: rest → size.toNat ≤ 64 → size.toNat ≤ buf.length →
    decode s.cfg (.frame (buf.take size.toNat)) = .ok i →
    step s = exec i
      { s with inputs := rest, rxf := Memory.ofBytes 0 (buf.take size.toNat), rxsize := some size.toNat }

/-- A transmit request whose `op` names an instruction runs that instruction (44_encode_common.md). -/
def Obligations.StepRunsRequestedInstruction : Prop :=
  ∀ (s : State) (op : Byte) (a : Args) (rest : List Transaction) (i : Instr),
    s.inputs = .enc op a :: rest → decode s.cfg (.request op a) = .ok i →
    step s = exec i { s with inputs := rest }

/-- R206: with no transaction presented the block does nothing. -/
def Obligations.IdleStepDoesNothing : Prop :=
  ∀ s : State, s.inputs = [] → step s = .next s

/-- Every step has a next state, but for a receive transaction whose buffer is shorter than a `size` of at most
64, which is refused; no step faults (40_decode_dispatch.md section 3, 70_reset_and_hazards.md section 3; the
refusal is the spec's decision D21, log entry 9). -/
def Obligations.StepStopsOnlyForShortBuffer : Prop :=
  ∀ s : State,
    (step s = .refused .bufferShorterThanSize ∧
      ∃ buf size rest, s.inputs = .dec buf size :: rest ∧ size.toNat ≤ 64 ∧
        buf.length < size.toNat) ∨
    ((∃ t, step s = .next t) ∧
      ¬ ∃ buf size rest, s.inputs = .dec buf size :: rest ∧ size.toNat ≤ 64 ∧
        buf.length < size.toNat)

/-- R81: `size > 64` fails with `E_TOO_LARGE` before anything else, whatever the buffer holds and however long
it is, and leaves RXF and RXSIZE without value; no smaller `size` fails so. -/
def Obligations.OversizedBufferIsRejected : Prop :=
  ∀ (s : State) (buf : List Byte) (size : Word) (rest : List Transaction),
    s.inputs = .dec buf size :: rest →
    (64 < size.toNat →
      step s = .next
        { s with inputs := rest, rxf := [], rxsize := none, dstat := dstatByte false .eTooLarge }) ∧
    (size.toNat ≤ 64 → size.toNat ≤ buf.length →
      ∃ t, step s = .next t ∧ t.dstat ≠ dstatByte false .eTooLarge)

/-- The status of every receive transaction that has a result, by the priority of the checks
(60_exceptions.md section 2; the positions of `E_SHORT` are the spec's decisions D6, D7, D25). -/
def Obligations.ReceiveStatusFollowsPriority : Prop :=
  ∀ (s : State) (buf : List Byte) (size : Word) (rest : List Transaction),
    s.cfg.Legal → s.inputs = .dec buf size :: rest →
    (size.toNat ≤ 64 → size.toNat ≤ buf.length) →
    let n := size.toNat
    let h := buf.getD 0 0
    let flags := (buf.getD 2 0).toNat
    let es := if flags % 4 = 0 then 1 else if flags % 4 = 1 then 2 else 4
    let count := (buf.getD 3 0).toNat + 256 * (buf.getD 4 0).toNat
    ∃ t, step s = .next t ∧
      t.dstat =
        if 64 < n then 0x08
        else if n = 0 then 0x0A
        else if h ∉ s.cfg.opcodes then 0x12
        else if h = s.cfg.opData then
          if n < 3 then 0x0A
          else if flags % 4 = 3 then 0x15
          else if n < 5 then 0x0A
          else if n < 5 + es * (count / es) then 0x0A
          else 0x11
        else if h = s.cfg.opGetModuleIdData then
          if n < 3 then 0x0A
          else if 20 < flags then 0x09
          else if n < 3 + flags then 0x0A
          else if buf.getD 1 0 = 0 ∨ buf.getD 1 0 = s.cfg.modIdRgbCap then 0x11
          else 0x14
        else 0x13

/-- Reset puts the block's registers at the reset values and leaves the parameters, the transactions to come and
everything handed over before; the state after power-on has the same register values (70_reset_and_hazards.md
section 1, 10_state.md section 11; the reset values are the spec's decision D16, log entry 11). -/
def Obligations.ResetClearsTheRegisters : Prop :=
  (∀ (s : State) (rest : List Transaction), s.inputs = .reset :: rest →
    step s = .next
      { s with inputs := rest, rxf := [], rxsize := some 0, dstat := 0, txf := [], estat := 0 }) ∧
  State.reset.rxf = [] ∧ State.reset.rxsize = some 0 ∧ State.reset.dstat = 0 ∧
  State.reset.txf = [] ∧ State.reset.estat = 0

/-- The two status registers' values are the numbers of the tables of 10_state.md section 6 with `OK` in bit 4 and
bits 7:5 zero (the numbers are the spec's decision D12). -/
def Obligations.StatusBytesHaveTheSpecNumbers : Prop :=
  [dstatByte false .idle, dstatByte true .emitted, dstatByte true .ignOpcode,
    dstatByte true .ignNoRxPath, dstatByte true .ignModule, dstatByte true .ignTag,
    dstatByte false .eTooLarge, dstatByte false .eLenBounds, dstatByte false .eShort]
    = [0x00, 0x11, 0x12, 0x13, 0x14, 0x15, 0x08, 0x09, 0x0A] ∧
  [estatByte false .idle, estatByte true .sent, estatByte false .eLenBounds,
    estatByte false .eNoTxPath] = [0x00, 0x11, 0x09, 0x0B]

/-! ## The received instructions -/

/-- R102: `DATA.8` is a frame with header `OP_DATA` and tag 0; it emits the first `count` data bytes as they
are, with the channel byte, or fails with `E_SHORT`. -/
def Obligations.Data8EmitsTheBytes : Prop :=
  ∀ (s : State) (f : List Byte), s.cfg.Legal → Loaded s f →
    (∀ ch flags rest, f = s.cfg.opData :: ch :: flags :: rest → flags.toNat % 4 = 0 →
      decode s.cfg (.frame f) = .ok .rxData8) ∧
    (f.length < 5 → exec .rxData8 s = .next { s with dstat := dstatByte false .eShort }) ∧
    (∀ h ch flags c0 c1 data, f = h :: ch :: flags :: c0 :: c1 :: data →
      let count := c0.toNat + 256 * c1.toNat
      (f.length < 5 + count → exec .rxData8 s = .next { s with dstat := dstatByte false .eShort }) ∧
      (5 + count ≤ f.length →
        exec .rxData8 s =
          .next { s with
            dstat := dstatByte true .emitted
            events := s.events ++ [.data8 ch (data.take count)] } ∧
        sinkOf (.data8 ch (data.take count)) = .data8))

/-- R103: `DATA.16` is a frame with header `OP_DATA` and tag 1; it emits `count div 2` little-endian 16-bit
elements, with the channel byte, or fails with `E_SHORT`. -/
def Obligations.Data16EmitsBytePairs : Prop :=
  ∀ (s : State) (f : List Byte), s.cfg.Legal → Loaded s f →
    (∀ ch flags rest, f = s.cfg.opData :: ch :: flags :: rest → flags.toNat % 4 = 1 →
      decode s.cfg (.frame f) = .ok .rxData16) ∧
    (f.length < 5 → exec .rxData16 s = .next { s with dstat := dstatByte false .eShort }) ∧
    (∀ h ch flags c0 c1 data, f = h :: ch :: flags :: c0 :: c1 :: data →
      let n := (c0.toNat + 256 * c1.toNat) / 2
      (f.length < 5 + 2 * n → exec .rxData16 s = .next { s with dstat := dstatByte false .eShort }) ∧
      (5 + 2 * n ≤ f.length →
        exec .rxData16 s =
          .next { s with
            dstat := dstatByte true .emitted
            events := s.events ++ [.data16 ch ((List.range n).map fun j =>
              BitVec.ofNat 16 ((f.getD (5 + 2 * j) 0).toNat + 256 * (f.getD (6 + 2 * j) 0).toNat))] } ∧
        ∀ e, sinkOf (.data16 ch e) = .data16))

/-- R104: `DATA.32` is a frame with header `OP_DATA` and tag 2; it emits `count div 4` little-endian unsigned
32-bit integers, each as its binary64 image, with the channel byte, or fails with `E_SHORT`. -/
def Obligations.Data32EmitsWidenedWords : Prop :=
  ∀ (s : State) (f : List Byte), s.cfg.Legal → Loaded s f →
    (∀ ch flags rest, f = s.cfg.opData :: ch :: flags :: rest → flags.toNat % 4 = 2 →
      decode s.cfg (.frame f) = .ok .rxData32) ∧
    (f.length < 5 → exec .rxData32 s = .next { s with dstat := dstatByte false .eShort }) ∧
    (∀ h ch flags c0 c1 data, f = h :: ch :: flags :: c0 :: c1 :: data →
      let n := (c0.toNat + 256 * c1.toNat) / 4
      (f.length < 5 + 4 * n → exec .rxData32 s = .next { s with dstat := dstatByte false .eShort }) ∧
      (5 + 4 * n ≤ f.length →
        exec .rxData32 s =
          .next { s with
            dstat := dstatByte true .emitted
            events := s.events ++ [.dataNum ch ((List.range n).map fun j =>
              u32ToF64 ((f.getD (5 + 4 * j) 0).toNat + 256 * (f.getD (6 + 4 * j) 0).toNat
                + 65536 * (f.getD (7 + 4 * j) 0).toNat
                + 16777216 * (f.getD (8 + 4 * j) 0).toNat))] } ∧
        ∀ e, sinkOf (.dataNum ch e) = .dataNum))

/-- R105: `DATA.RSV` is a frame with header `OP_DATA` and tag 3; it is ignored with success as soon as `flags`
is present, whatever else the frame holds. -/
def Obligations.ReservedTagIsIgnored : Prop :=
  ∀ (s : State) (f : List Byte), s.cfg.Legal → Loaded s f →
    (∀ ch flags rest, f = s.cfg.opData :: ch :: flags :: rest → flags.toNat % 4 = 3 →
      decode s.cfg (.frame f) = .ok .rxDataRsv) ∧
    (3 ≤ f.length → exec .rxDataRsv s = .next { s with dstat := dstatByte true .ignTag }) ∧
    (f.length < 3 → exec .rxDataRsv s = .next { s with dstat := dstatByte false .eShort })

/-- R121: a received `GET_MODULE_ID_DATA` is bounded, copied and dispatched by module, in that order. -/
def Obligations.ModuleReplyIsValidatedThenDispatched : Prop :=
  ∀ (s : State) (f : List Byte), s.cfg.Legal → Loaded s f →
    (f[0]? = some s.cfg.opGetModuleIdData →
      decode s.cfg (.frame f) = .ok .rxGetModuleIdData) ∧
    (f.length < 3 → exec .rxGetModuleIdData s = .next { s with dstat := dstatByte false .eShort }) ∧
    (∀ h m len rest, f = h :: m :: len :: rest →
      (20 < len.toNat →
        exec .rxGetModuleIdData s = .next { s with dstat := dstatByte false .eLenBounds }) ∧
      (len.toNat ≤ 20 → f.length < 3 + len.toNat →
        exec .rxGetModuleIdData s = .next { s with dstat := dstatByte false .eShort }) ∧
      (len.toNat ≤ 20 → 3 + len.toNat ≤ f.length → m = 0 →
        exec .rxGetModuleIdData s =
          .next { s with
            dstat := dstatByte true .emitted
            events := s.events ++ [.coldPaletteModuleData (rest.take len.toNat)] } ∧
        sinkOf (.coldPaletteModuleData (rest.take len.toNat)) = .coldPalette) ∧
      (len.toNat ≤ 20 → 3 + len.toNat ≤ f.length → m = s.cfg.modIdRgbCap →
        exec .rxGetModuleIdData s =
          .next { s with
            dstat := dstatByte true .emitted
            events := s.events ++ [.rgbCapModuleData (rest.take len.toNat)] } ∧
        sinkOf (.rgbCapModuleData (rest.take len.toNat)) = .rgbCap) ∧
      (len.toNat ≤ 20 → 3 + len.toNat ≤ f.length → m ≠ 0 → m ≠ s.cfg.modIdRgbCap →
        exec .rxGetModuleIdData s = .next { s with dstat := dstatByte true .ignModule }))

/-- R131: a received `STOP`, `START_CLOCKWISE`, `START_COUNTER_CLOCKWISE` or `START_AUTO_SWITCHER` is ignored
with success, whatever follows the header. -/
def Obligations.ChannelCommandsAreIgnoredOnReceive : Prop :=
  ∀ (s : State) (payload : List Byte), s.cfg.Legal →
    (decode s.cfg (.frame (s.cfg.opStop :: payload)) = .ok .rxStop ∧
      exec .rxStop s = .next { s with dstat := dstatByte true .ignNoRxPath }) ∧
    (decode s.cfg (.frame (s.cfg.opStartClockwise :: payload)) = .ok .rxStartClockwise ∧
      exec .rxStartClockwise s = .next { s with dstat := dstatByte true .ignNoRxPath }) ∧
    (decode s.cfg (.frame (s.cfg.opStartCounterClockwise :: payload))
        = .ok .rxStartCounterClockwise ∧
      exec .rxStartCounterClockwise s = .next { s with dstat := dstatByte true .ignNoRxPath }) ∧
    (decode s.cfg (.frame (s.cfg.opStartAutoSwitcher :: payload)) = .ok .rxStartAutoSwitcher ∧
      exec .rxStartAutoSwitcher s = .next { s with dstat := dstatByte true .ignNoRxPath })

/-- R132: a received `SET_MODULE_ID_DATA` is ignored with success, whatever its `dataLen` byte. -/
def Obligations.SetModuleIsIgnoredOnReceive : Prop :=
  ∀ (s : State) (payload : List Byte), s.cfg.Legal →
    decode s.cfg (.frame (s.cfg.opSetModuleIdData :: payload)) = .ok .rxSetModuleIdData ∧
    exec .rxSetModuleIdData s = .next { s with dstat := dstatByte true .ignNoRxPath }

/-- R133: any header outside the seven opcodes is ignored with success, whatever follows it. -/
def Obligations.UnknownHeaderIsIgnored : Prop :=
  ∀ (s : State) (h : Byte) (payload : List Byte), h ∉ s.cfg.opcodes →
    decode s.cfg (.frame (h :: payload)) = .ok (.rxUnknown h) ∧
    exec (.rxUnknown h) s = .next { s with dstat := dstatByte true .ignOpcode }

/-- The binary64 image of a 32-bit unsigned integer is exact: sign 0, and significand times two to the exponent
is the integer (41_decode_data.md section 3; the format is the spec's decision D10, its field layout general
knowledge, log entry 13). -/
def Obligations.WideningIsExact : Prop :=
  ∀ v : Nat, v < 2 ^ 32 →
    (v = 0 → u32ToF64 v = 0) ∧
    (0 < v → ∃ e ≤ 31, 2 ^ e ≤ v ∧ v < 2 ^ (e + 1) ∧
      ((u32ToF64 v).extractLsb' 63 1).toNat = 0 ∧
      ((u32ToF64 v).extractLsb' 52 11).toNat = 1023 + e ∧
      (2 ^ 52 + ((u32ToF64 v).extractLsb' 0 52).toNat) * 2 ^ e = v * 2 ^ 52)

/-- The widening loses nothing: different integers have different images (41_decode_data.md section 3). -/
def Obligations.WideningIsInjective : Prop :=
  ∀ v w : Nat, v < 2 ^ 32 → w < 2 ^ 32 → u32ToF64 v = u32ToF64 w → v = w

/-- Element `j` of a `DATA` event depends on bytes `5 + es*j` to `5 + es*j + es - 1` of the frame and on nothing
else (41_decode_data.md section 4). -/
def Obligations.ElementsAreIndependentLanes : Prop :=
  ∀ (es : Nat) (s s' : State) (f f' : List Byte) (ch ch' : Byte) (v v' : List Nat) (j : Nat),
    es ∈ [1, 2, 4] → Loaded s f → Loaded s' f' →
    dataFields es s = .ok (ch, v) → dataFields es s' = .ok (ch', v') →
    j < v.length → j < v'.length →
    (∀ k < es, f[5 + es * j + k]? = f'[5 + es * j + k]?) → v[j]? = v'[j]?

/-- Bytes appended to a frame that was decoded with success change nothing: same status, same event
(30_encoding.md section 5 item 8). -/
def Obligations.TailBytesAreIgnored : Prop :=
  ∀ (s t : State) (f tail : List Byte) (i : Instr),
    i.receives = true → Loaded s f → (f ++ tail).length ≤ 64 →
    exec i s = .next t → statusOk t.dstat = true →
    ∃ t', exec i (load (f ++ tail) s) = .next t' ∧ t'.dstat = t.dstat ∧ t'.events = t.events

/-! ## The transmitted instructions -/

/-- R150, R152, R153, R154: the three channel commands send `[op, channel, 0 x 62]`. -/
def Obligations.ChannelCommandsSendTheirFrame : Prop :=
  ∀ (s : State) (a : Args), s.cfg.Legal →
    let frame (op : Byte) : List Byte := [op, a.channel] ++ List.replicate 62 0
    let sent (op : Byte) : State :=
      { s with
        txf := Memory.ofBytes 0 (frame op), estat := estatByte true .sent, frames := s.frames ++ [frame op] }
    (decode s.cfg (.request s.cfg.opStop a) = .ok (.txStop a.channel) ∧
      exec (.txStop a.channel) s = .next (sent s.cfg.opStop)) ∧
    (decode s.cfg (.request s.cfg.opStartClockwise a) = .ok (.txStartClockwise a.channel) ∧
      exec (.txStartClockwise a.channel) s = .next (sent s.cfg.opStartClockwise)) ∧
    (decode s.cfg (.request s.cfg.opStartCounterClockwise a)
        = .ok (.txStartCounterClockwise a.channel) ∧
      exec (.txStartCounterClockwise a.channel) s = .next (sent s.cfg.opStartCounterClockwise))

/-- R160: `START_AUTO_SWITCHER` sends its four operands packed without padding, least significant byte first. -/
def Obligations.AutoSwitcherSendsItsFrame : Prop :=
  ∀ (s : State) (a : Args),
    let i : Instr := .txStartAutoSwitcher a.channel a.offTime a.onTime a.count
    let byte (v k : Nat) : Byte := BitVec.ofNat 8 (v / 256 ^ k % 256)
    let frame : List Byte :=
      [s.cfg.opStartAutoSwitcher, a.channel,
        byte a.offTime.toNat 0, byte a.offTime.toNat 1, byte a.onTime.toNat 0, byte a.onTime.toNat 1,
        byte a.count.toNat 0, byte a.count.toNat 1, byte a.count.toNat 2, byte a.count.toNat 3]
        ++ List.replicate 54 0
    (s.cfg.Legal → decode s.cfg (.request s.cfg.opStartAutoSwitcher a) = .ok i) ∧
    exec i s =
      .next { s with
        txf := Memory.ofBytes 0 frame, estat := estatByte true .sent, frames := s.frames ++ [frame] }

/-- R166: `SET_MODULE_ID_DATA` sends the first `len` data bytes and zeros, or fails with `E_LEN_BOUNDS` and sends
nothing (what TXF then holds is not in this rule, see `TransmitFrameRule`). -/
def Obligations.SetModuleSendsItsFrame : Prop :=
  ∀ (s : State) (a : Args),
    let i : Instr := .txSetModuleIdData a.moduleId a.data a.len
    let frame : List Byte :=
      [s.cfg.opSetModuleIdData, a.moduleId, a.len] ++ a.data.toList.take a.len.toNat
        ++ List.replicate (61 - a.len.toNat) 0
    (s.cfg.Legal → decode s.cfg (.request s.cfg.opSetModuleIdData a) = .ok i) ∧
    (a.len.toNat ≤ 20 →
      exec i s =
        .next { s with
          txf := Memory.ofBytes 0 frame, estat := estatByte true .sent, frames := s.frames ++ [frame] }) ∧
    (20 < a.len.toNat →
      ∃ txf, exec i s = .next { s with txf := txf, estat := estatByte false .eLenBounds })

/-- The `GET_MODULE_ID_DATA` request sends the module id and the length and no data, or fails with `E_LEN_BOUNDS`
and sends nothing (47_encode_module_id.md section 2; the bound on `reqLen` and TXF without value after a failure
are the spec's decisions D15 and D14, log entry 15). -/
def Obligations.ModuleRequestSendsItsFrame : Prop :=
  ∀ (s : State) (a : Args),
    let i : Instr := .txGetModuleIdData a.moduleId a.reqLen
    let frame : List Byte :=
      [s.cfg.opGetModuleIdData, a.moduleId, a.reqLen] ++ List.replicate 61 0
    (s.cfg.Legal → decode s.cfg (.request s.cfg.opGetModuleIdData a) = .ok i) ∧
    (a.reqLen.toNat ≤ 20 →
      exec i s =
        .next { s with
          txf := Memory.ofBytes 0 frame, estat := estatByte true .sent, frames := s.frames ++ [frame] }) ∧
    (20 < a.reqLen.toNat →
      exec i s = .next { s with txf := [], estat := estatByte false .eLenBounds })

/-- A request whose `op` is `OP_DATA` or no opcode fails with `E_NO_TX_PATH`, whatever its operands, and sends
nothing (44_encode_common.md; the case is the spec's decision D13). -/
def Obligations.RequestWithoutPathFails : Prop :=
  ∀ (s : State) (op : Byte) (a : Args) (rest : List Transaction),
    s.cfg.Legal → s.inputs = .enc op a :: rest → op = s.cfg.opData ∨ op ∉ s.cfg.opcodes →
    step s = .next { s with inputs := rest, txf := [], estat := estatByte false .eNoTxPath }

/-! ## What each half leaves alone -/

/-- R86: a receive transaction emits at most one event, exactly when it ends with `EMITTED`, and besides that
changes only DSTAT, RXF and RXSIZE. -/
def Obligations.ReceiveEmitsAtMostOneEvent : Prop :=
  ∀ (s : State) (buf : List Byte) (size : Word) (rest : List Transaction),
    s.inputs = .dec buf size :: rest → (size.toNat ≤ 64 → size.toNat ≤ buf.length) →
    ∃ t, step s = .next t ∧
      ((t.dstat = dstatByte true .emitted ∧ ∃ e, t.events = s.events ++ [e]) ∨
        (t.dstat ≠ dstatByte true .emitted ∧ t.events = s.events)) ∧
      t = { s with
        inputs := rest, rxf := t.rxf, rxsize := t.rxsize, dstat := t.dstat, events := t.events }

/-- R145: exactly one 64-byte frame per successful transmit request, none per failed one, and none by any other
transaction, a received one among them. -/
def Obligations.OneFramePerSuccessfulRequest : Prop :=
  ∀ s t : State, step s = .next t →
    (∀ op a rest, s.inputs = .enc op a :: rest →
      (statusOk t.estat = true ∧ ∃ f, f.length = 64 ∧ t.frames = s.frames ++ [f]) ∨
      (statusOk t.estat = false ∧ t.frames = s.frames)) ∧
    ((∀ op a rest, s.inputs ≠ .enc op a :: rest) → t.frames = s.frames)

/-- A receive instruction that fails, or ignores its frame, changes DSTAT and nothing else; one that emits changes
DSTAT and adds one event at the end of the log (60_exceptions.md section 3, 40_decode_dispatch.md section 3). -/
def Obligations.ReceiveFrameRule : Prop :=
  ∀ (s t : State) (i : Instr), i.receives = true → exec i s = .next t →
    (statusOk t.dstat = false → t = { s with dstat := t.dstat }) ∧
    (statusOk t.dstat = true → t.dstat ≠ dstatByte true .emitted → t = { s with dstat := t.dstat }) ∧
    (t.dstat = dstatByte true .emitted →
      ∃ e, t = { s with dstat := dstatByte true .emitted, events := s.events ++ [e] })

/-- A transmit instruction changes TXF, ESTAT and the frames sent, and nothing of the decoder's
(10_state.md section 2): RXF, RXSIZE, DSTAT, the events, the queue and the parameters are unchanged. After a
failure TXF holds no value and nothing is sent (44_encode_common.md; the spec's decision D14, log entry 15). -/
def Obligations.TransmitFrameRule : Prop :=
  ∀ (s t : State) (i : Instr), i.receives = false → exec i s = .next t →
    t = { s with txf := t.txf, estat := t.estat, frames := t.frames } ∧
    ((t.estat = estatByte true .sent ∧ ∃ f, f.length = 64 ∧ t.txf = Memory.ofBytes 0 f ∧
        t.frames = s.frames ++ [f]) ∨
      (t.estat = estatByte false .eLenBounds ∧ t.txf = [] ∧ t.frames = s.frames))

/-- No step changes the parameters or takes back anything handed over: outputs only grow at the end, so they
appear in the order the transactions were presented (20_memory.md section 8, 10_state.md section 9). -/
def Obligations.OutputsOnlyGrow : Prop :=
  ∀ s t : State, step s = .next t →
    t.cfg = s.cfg ∧ s.events <+: t.events ∧ s.frames <+: t.frames ∧ t.inputs = s.inputs.tail

/-- The opcode, the tag and the module id alone decide which sink takes an event (60_exceptions.md section 5). -/
def Obligations.EventsGoToTheirSink : Prop :=
  ∀ (s t : State) (f : List Byte) (i : Instr) (e : Event),
    Loaded s f → exec i s = .next t → t.events = s.events ++ [e] →
    (i = .rxData8 ∧ sinkOf e = .data8) ∨ (i = .rxData16 ∧ sinkOf e = .data16) ∨
    (i = .rxData32 ∧ sinkOf e = .dataNum) ∨
    (i = .rxGetModuleIdData ∧ f[1]? = some 0 ∧ sinkOf e = .coldPalette) ∨
    (i = .rxGetModuleIdData ∧ f[1]? = some s.cfg.modIdRgbCap ∧ sinkOf e = .rgbCap)

/-! ## The read and write primitives -/

/-- R33: `RdLE` of 1, 2 or 4 bytes is the little-endian sum, checked as a whole against the received size. -/
def Obligations.LittleEndianReads : Prop :=
  ∀ (s : State) (f : List Byte) (off : Nat), Loaded s f →
    (∀ n ∈ [1, 2, 4], f.length < off + n → rdLE s off n = .error .eShort) ∧
    (off + 1 ≤ f.length → rdLE s off 1 = .ok (f.getD off 0).toNat) ∧
    (off + 2 ≤ f.length →
      rdLE s off 2 = .ok ((f.getD off 0).toNat + 256 * (f.getD (off + 1) 0).toNat)) ∧
    (off + 4 ≤ f.length →
      rdLE s off 4 = .ok ((f.getD off 0).toNat + 256 * (f.getD (off + 1) 0).toNat
        + 65536 * (f.getD (off + 2) 0).toNat + 16777216 * (f.getD (off + 3) 0).toNat)) ∧
    rdLE s off 1 = (rdB s off).map BitVec.toNat

/-- R36: `WrLE` puts byte `(v div 256^k) mod 256` at `off + k` and touches no other offset. -/
def Obligations.LittleEndianWrites : Prop :=
  ∀ (s : State) (off n v : Nat), n ∈ [1, 2, 4] → v < 256 ^ n → off + n ≤ 64 →
    (∀ k < n,
      (wrLE off n v s).txf.read (off + k) = some (BitVec.ofNat 8 (v / 256 ^ k % 256))) ∧
    (∀ a, a < off ∨ off + n ≤ a → (wrLE off n v s).txf.read a = s.txf.read a) ∧
    wrLE off n v s = { s with txf := (wrLE off n v s).txf }

/-- R35, R37: `WrB` and `WrBytes` put their bytes at their offsets and touch no other; an empty run writes
nothing. -/
def Obligations.ByteAndRunWrites : Prop :=
  ∀ (s : State) (off : Nat) (b : Byte) (bytes : List Byte),
    (wrB off b s).txf.read off = some b ∧
    (∀ a, a ≠ off → (wrB off b s).txf.read a = s.txf.read a) ∧
    (∀ k < bytes.length, (wrBytes off bytes s).txf.read (off + k) = bytes[k]?) ∧
    (∀ a, a < off ∨ off + bytes.length ≤ a →
      (wrBytes off bytes s).txf.read a = s.txf.read a) ∧
    wrBytes off [] s = s ∧
    wrB off b s = { s with txf := (wrB off b s).txf } ∧
    wrBytes off bytes s = { s with txf := (wrBytes off bytes s).txf }

/-! ## Rules of the whole machine -/

/-- R26: the result of a receive transaction is a function of `size` and of the first `min(size, 64)` bytes of
the buffer alone, and the result of a transmit request of `op` and `args` alone: not of the state, of earlier
transactions or of the other half. -/
def Obligations.ResultsDependOnTheTransactionAlone : Prop :=
  (∀ (c : Config) (buf : List Byte) (size : Word),
    (size.toNat ≤ 64 → size.toNat ≤ buf.length) →
    ∃ (status : Byte) (emitted : List Event), emitted.length ≤ 1 ∧
      ∀ (s : State) (buf' : List Byte) (rest : List Transaction),
        s.cfg = c → s.inputs = .dec buf' size :: rest →
        buf'.take (min size.toNat 64) = buf.take (min size.toNat 64) →
        ∃ t, step s = .next t ∧ t.dstat = status ∧ t.events = s.events ++ emitted) ∧
  (∀ (c : Config) (op : Byte) (a : Args),
    ∃ (status : Byte) (sent : List (List Byte)), sent.length ≤ 1 ∧
      ∀ (s : State) (rest : List Transaction), s.cfg = c → s.inputs = .enc op a :: rest →
        ∃ t, step s = .next t ∧ t.estat = status ∧ t.frames = s.frames ++ sent)

/-- The two halves commute: a receive transaction and a transmit request in either order end in the same state
(10_state.md section 2; the two-agent reading is the spec's decision D18). -/
def Obligations.HalvesCommute : Prop :=
  ∀ (s : State) (buf : List Byte) (size : Word) (op : Byte) (a : Args)
    (rest : List Transaction),
    twoSteps { s with inputs := .dec buf size :: .enc op a :: rest }
      = twoSteps { s with inputs := .enc op a :: .dec buf size :: rest }

/-- Every frame the encoder sends, presented to the decoder of an instance with the same parameters, is ignored
with success, except a `GET_MODULE_ID_DATA` request, which decodes as a reply of that many zero bytes
(44_encode_common.md, the round trip with the decoder). -/
def Obligations.SentFramesDecodeAsTheSpecSays : Prop :=
  ∀ (s t u : State) (i : Instr) (f : List Byte) (rest : List Transaction),
    s.cfg.Legal → i.receives = false → exec i s = .next t → t.frames = s.frames ++ [f] →
    u.cfg = s.cfg → u.inputs = .dec f 64 :: rest →
    ∃ v, step u = .next v ∧
      match i with
      | .txGetModuleIdData moduleId reqLen =>
        (moduleId = 0 → v.dstat = dstatByte true .emitted ∧
          v.events = u.events ++ [.coldPaletteModuleData (List.replicate reqLen.toNat 0)]) ∧
        (moduleId = s.cfg.modIdRgbCap → v.dstat = dstatByte true .emitted ∧
          v.events = u.events ++ [.rgbCapModuleData (List.replicate reqLen.toNat 0)]) ∧
        (moduleId ≠ 0 → moduleId ≠ s.cfg.modIdRgbCap →
          v.dstat = dstatByte true .ignModule ∧ v.events = u.events)
      | _ => v.dstat = dstatByte true .ignNoRxPath ∧ v.events = u.events

/-- Every step keeps the invariant: legal parameters; RXF lists exactly the offsets below RXSIZE; TXF holds
nothing or a whole frame; both in canonical form; the status registers hold one of their values, reserved bits
zero; frames have 64 bytes and events stay within their bounds (10_state.md sections 5, 6, 10, 11). -/
def Obligations.StepKeepsTheInvariant : Prop :=
  ∀ s t : State, s.Inv → step s = .next t → t.Inv

/-- The invariant holds after reset. -/
def Obligations.ResetHasTheInvariant : Prop := State.reset.Inv
end

