-- ==== Sys2Proof/Laws/State.lean ====
section
/-! SUPPORT. What each update of the state leaves in each field, so that no proof unfolds a record update. -/

namespace Sys2Proof.Machine

@[simp] theorem load_cfg (bytes : List Byte) (s : State) : (load bytes s).cfg = s.cfg := rfl
@[simp] theorem load_rxf (bytes : List Byte) (s : State) : (load bytes s).rxf = Memory.ofBytes 0 bytes := rfl
@[simp] theorem load_rxsize (bytes : List Byte) (s : State) : (load bytes s).rxsize = some bytes.length := rfl
@[simp] theorem load_dstat (bytes : List Byte) (s : State) : (load bytes s).dstat = s.dstat := rfl
@[simp] theorem load_txf (bytes : List Byte) (s : State) : (load bytes s).txf = s.txf := rfl
@[simp] theorem load_estat (bytes : List Byte) (s : State) : (load bytes s).estat = s.estat := rfl
@[simp] theorem load_inputs (bytes : List Byte) (s : State) : (load bytes s).inputs = s.inputs := rfl
@[simp] theorem load_events (bytes : List Byte) (s : State) : (load bytes s).events = s.events := rfl
@[simp] theorem load_frames (bytes : List Byte) (s : State) : (load bytes s).frames = s.frames := rfl

@[simp] theorem unload_cfg (s : State) : (unload s).cfg = s.cfg := rfl
@[simp] theorem unload_rxf (s : State) : (unload s).rxf = [] := rfl
@[simp] theorem unload_rxsize (s : State) : (unload s).rxsize = none := rfl
@[simp] theorem unload_dstat (s : State) : (unload s).dstat = s.dstat := rfl
@[simp] theorem unload_txf (s : State) : (unload s).txf = s.txf := rfl
@[simp] theorem unload_estat (s : State) : (unload s).estat = s.estat := rfl
@[simp] theorem unload_inputs (s : State) : (unload s).inputs = s.inputs := rfl
@[simp] theorem unload_events (s : State) : (unload s).events = s.events := rfl
@[simp] theorem unload_frames (s : State) : (unload s).frames = s.frames := rfl

@[simp] theorem setDstat_cfg (ok : Bool) (c : DecCode) (s : State) : (setDstat ok c s).cfg = s.cfg := rfl
@[simp] theorem setDstat_rxf (ok : Bool) (c : DecCode) (s : State) : (setDstat ok c s).rxf = s.rxf := rfl
@[simp] theorem setDstat_rxsize (ok : Bool) (c : DecCode) (s : State) : (setDstat ok c s).rxsize = s.rxsize := rfl
@[simp] theorem setDstat_dstat (ok : Bool) (c : DecCode) (s : State) : (setDstat ok c s).dstat = dstatByte ok c := rfl
@[simp] theorem setDstat_txf (ok : Bool) (c : DecCode) (s : State) : (setDstat ok c s).txf = s.txf := rfl
@[simp] theorem setDstat_estat (ok : Bool) (c : DecCode) (s : State) : (setDstat ok c s).estat = s.estat := rfl
@[simp] theorem setDstat_inputs (ok : Bool) (c : DecCode) (s : State) : (setDstat ok c s).inputs = s.inputs := rfl
@[simp] theorem setDstat_events (ok : Bool) (c : DecCode) (s : State) : (setDstat ok c s).events = s.events := rfl
@[simp] theorem setDstat_frames (ok : Bool) (c : DecCode) (s : State) : (setDstat ok c s).frames = s.frames := rfl

@[simp] theorem emit_cfg (e : Event) (s : State) : (emit e s).cfg = s.cfg := rfl
@[simp] theorem emit_rxf (e : Event) (s : State) : (emit e s).rxf = s.rxf := rfl
@[simp] theorem emit_rxsize (e : Event) (s : State) : (emit e s).rxsize = s.rxsize := rfl
@[simp] theorem emit_dstat (e : Event) (s : State) : (emit e s).dstat = s.dstat := rfl
@[simp] theorem emit_txf (e : Event) (s : State) : (emit e s).txf = s.txf := rfl
@[simp] theorem emit_estat (e : Event) (s : State) : (emit e s).estat = s.estat := rfl
@[simp] theorem emit_inputs (e : Event) (s : State) : (emit e s).inputs = s.inputs := rfl
@[simp] theorem emit_events (e : Event) (s : State) : (emit e s).events = s.events ++ [e] := rfl
@[simp] theorem emit_frames (e : Event) (s : State) : (emit e s).frames = s.frames := rfl

@[simp] theorem doneDec_cfg (c : DecCode) (s : State) : (doneDec c s).cfg = s.cfg := rfl
@[simp] theorem doneDec_rxf (c : DecCode) (s : State) : (doneDec c s).rxf = s.rxf := rfl
@[simp] theorem doneDec_rxsize (c : DecCode) (s : State) : (doneDec c s).rxsize = s.rxsize := rfl
@[simp] theorem doneDec_dstat (c : DecCode) (s : State) : (doneDec c s).dstat = dstatByte true c := rfl
@[simp] theorem doneDec_txf (c : DecCode) (s : State) : (doneDec c s).txf = s.txf := rfl
@[simp] theorem doneDec_estat (c : DecCode) (s : State) : (doneDec c s).estat = s.estat := rfl
@[simp] theorem doneDec_inputs (c : DecCode) (s : State) : (doneDec c s).inputs = s.inputs := rfl
@[simp] theorem doneDec_events (c : DecCode) (s : State) : (doneDec c s).events = s.events := rfl
@[simp] theorem doneDec_frames (c : DecCode) (s : State) : (doneDec c s).frames = s.frames := rfl

@[simp] theorem failDec_cfg (c : DecCode) (s : State) : (failDec c s).cfg = s.cfg := rfl
@[simp] theorem failDec_rxf (c : DecCode) (s : State) : (failDec c s).rxf = s.rxf := rfl
@[simp] theorem failDec_rxsize (c : DecCode) (s : State) : (failDec c s).rxsize = s.rxsize := rfl
@[simp] theorem failDec_dstat (c : DecCode) (s : State) : (failDec c s).dstat = dstatByte false c := rfl
@[simp] theorem failDec_txf (c : DecCode) (s : State) : (failDec c s).txf = s.txf := rfl
@[simp] theorem failDec_estat (c : DecCode) (s : State) : (failDec c s).estat = s.estat := rfl
@[simp] theorem failDec_inputs (c : DecCode) (s : State) : (failDec c s).inputs = s.inputs := rfl
@[simp] theorem failDec_events (c : DecCode) (s : State) : (failDec c s).events = s.events := rfl
@[simp] theorem failDec_frames (c : DecCode) (s : State) : (failDec c s).frames = s.frames := rfl

@[simp] theorem zeroFrame_cfg (s : State) : (zeroFrame s).cfg = s.cfg := rfl
@[simp] theorem zeroFrame_rxf (s : State) : (zeroFrame s).rxf = s.rxf := rfl
@[simp] theorem zeroFrame_rxsize (s : State) : (zeroFrame s).rxsize = s.rxsize := rfl
@[simp] theorem zeroFrame_dstat (s : State) : (zeroFrame s).dstat = s.dstat := rfl
@[simp] theorem zeroFrame_txf (s : State) : (zeroFrame s).txf = Memory.ofBytes 0 (List.replicate frameSize 0) := rfl
@[simp] theorem zeroFrame_estat (s : State) : (zeroFrame s).estat = s.estat := rfl
@[simp] theorem zeroFrame_inputs (s : State) : (zeroFrame s).inputs = s.inputs := rfl
@[simp] theorem zeroFrame_events (s : State) : (zeroFrame s).events = s.events := rfl
@[simp] theorem zeroFrame_frames (s : State) : (zeroFrame s).frames = s.frames := rfl

@[simp] theorem wrB_cfg (off : Nat) (v : Byte) (s : State) : (wrB off v s).cfg = s.cfg := rfl
@[simp] theorem wrB_rxf (off : Nat) (v : Byte) (s : State) : (wrB off v s).rxf = s.rxf := rfl
@[simp] theorem wrB_rxsize (off : Nat) (v : Byte) (s : State) : (wrB off v s).rxsize = s.rxsize := rfl
@[simp] theorem wrB_dstat (off : Nat) (v : Byte) (s : State) : (wrB off v s).dstat = s.dstat := rfl
@[simp] theorem wrB_txf (off : Nat) (v : Byte) (s : State) : (wrB off v s).txf = s.txf.write off v := rfl
@[simp] theorem wrB_estat (off : Nat) (v : Byte) (s : State) : (wrB off v s).estat = s.estat := rfl
@[simp] theorem wrB_inputs (off : Nat) (v : Byte) (s : State) : (wrB off v s).inputs = s.inputs := rfl
@[simp] theorem wrB_events (off : Nat) (v : Byte) (s : State) : (wrB off v s).events = s.events := rfl
@[simp] theorem wrB_frames (off : Nat) (v : Byte) (s : State) : (wrB off v s).frames = s.frames := rfl

@[simp] theorem wrBytes_cfg (off : Nat) (bytes : List Byte) (s : State) : (wrBytes off bytes s).cfg = s.cfg := rfl
@[simp] theorem wrBytes_rxf (off : Nat) (bytes : List Byte) (s : State) : (wrBytes off bytes s).rxf = s.rxf := rfl
@[simp] theorem wrBytes_rxsize (off : Nat) (bytes : List Byte) (s : State) : (wrBytes off bytes s).rxsize = s.rxsize := rfl
@[simp] theorem wrBytes_dstat (off : Nat) (bytes : List Byte) (s : State) : (wrBytes off bytes s).dstat = s.dstat := rfl
@[simp] theorem wrBytes_txf (off : Nat) (bytes : List Byte) (s : State) : (wrBytes off bytes s).txf = s.txf.writeRun off bytes := rfl
@[simp] theorem wrBytes_estat (off : Nat) (bytes : List Byte) (s : State) : (wrBytes off bytes s).estat = s.estat := rfl
@[simp] theorem wrBytes_inputs (off : Nat) (bytes : List Byte) (s : State) : (wrBytes off bytes s).inputs = s.inputs := rfl
@[simp] theorem wrBytes_events (off : Nat) (bytes : List Byte) (s : State) : (wrBytes off bytes s).events = s.events := rfl
@[simp] theorem wrBytes_frames (off : Nat) (bytes : List Byte) (s : State) : (wrBytes off bytes s).frames = s.frames := rfl

@[simp] theorem wrLE_cfg (off n v : Nat) (s : State) : (wrLE off n v s).cfg = s.cfg := rfl
@[simp] theorem wrLE_rxf (off n v : Nat) (s : State) : (wrLE off n v s).rxf = s.rxf := rfl
@[simp] theorem wrLE_rxsize (off n v : Nat) (s : State) : (wrLE off n v s).rxsize = s.rxsize := rfl
@[simp] theorem wrLE_dstat (off n v : Nat) (s : State) : (wrLE off n v s).dstat = s.dstat := rfl
@[simp] theorem wrLE_txf (off n v : Nat) (s : State) : (wrLE off n v s).txf = s.txf.writeRun off (leBytes n v) := rfl
@[simp] theorem wrLE_estat (off n v : Nat) (s : State) : (wrLE off n v s).estat = s.estat := rfl
@[simp] theorem wrLE_inputs (off n v : Nat) (s : State) : (wrLE off n v s).inputs = s.inputs := rfl
@[simp] theorem wrLE_events (off n v : Nat) (s : State) : (wrLE off n v s).events = s.events := rfl
@[simp] theorem wrLE_frames (off n v : Nat) (s : State) : (wrLE off n v s).frames = s.frames := rfl

@[simp] theorem setEstat_cfg (ok : Bool) (c : EncCode) (s : State) : (setEstat ok c s).cfg = s.cfg := rfl
@[simp] theorem setEstat_rxf (ok : Bool) (c : EncCode) (s : State) : (setEstat ok c s).rxf = s.rxf := rfl
@[simp] theorem setEstat_rxsize (ok : Bool) (c : EncCode) (s : State) : (setEstat ok c s).rxsize = s.rxsize := rfl
@[simp] theorem setEstat_dstat (ok : Bool) (c : EncCode) (s : State) : (setEstat ok c s).dstat = s.dstat := rfl
@[simp] theorem setEstat_txf (ok : Bool) (c : EncCode) (s : State) : (setEstat ok c s).txf = s.txf := rfl
@[simp] theorem setEstat_estat (ok : Bool) (c : EncCode) (s : State) : (setEstat ok c s).estat = estatByte ok c := rfl
@[simp] theorem setEstat_inputs (ok : Bool) (c : EncCode) (s : State) : (setEstat ok c s).inputs = s.inputs := rfl
@[simp] theorem setEstat_events (ok : Bool) (c : EncCode) (s : State) : (setEstat ok c s).events = s.events := rfl
@[simp] theorem setEstat_frames (ok : Bool) (c : EncCode) (s : State) : (setEstat ok c s).frames = s.frames := rfl

@[simp] theorem sendDone_cfg (s : State) : (sendDone s).cfg = s.cfg := rfl
@[simp] theorem sendDone_rxf (s : State) : (sendDone s).rxf = s.rxf := rfl
@[simp] theorem sendDone_rxsize (s : State) : (sendDone s).rxsize = s.rxsize := rfl
@[simp] theorem sendDone_dstat (s : State) : (sendDone s).dstat = s.dstat := rfl
@[simp] theorem sendDone_txf (s : State) : (sendDone s).txf = s.txf := rfl
@[simp] theorem sendDone_estat (s : State) : (sendDone s).estat = estatByte true .sent := rfl
@[simp] theorem sendDone_inputs (s : State) : (sendDone s).inputs = s.inputs := rfl
@[simp] theorem sendDone_events (s : State) : (sendDone s).events = s.events := rfl
@[simp] theorem sendDone_frames (s : State) : (sendDone s).frames = s.frames ++ [frameBytes s.txf] := rfl

@[simp] theorem failEnc_cfg (c : EncCode) (s : State) : (failEnc c s).cfg = s.cfg := rfl
@[simp] theorem failEnc_rxf (c : EncCode) (s : State) : (failEnc c s).rxf = s.rxf := rfl
@[simp] theorem failEnc_rxsize (c : EncCode) (s : State) : (failEnc c s).rxsize = s.rxsize := rfl
@[simp] theorem failEnc_dstat (c : EncCode) (s : State) : (failEnc c s).dstat = s.dstat := rfl
@[simp] theorem failEnc_txf (c : EncCode) (s : State) : (failEnc c s).txf = [] := rfl
@[simp] theorem failEnc_estat (c : EncCode) (s : State) : (failEnc c s).estat = estatByte false c := rfl
@[simp] theorem failEnc_inputs (c : EncCode) (s : State) : (failEnc c s).inputs = s.inputs := rfl
@[simp] theorem failEnc_events (c : EncCode) (s : State) : (failEnc c s).events = s.events := rfl
@[simp] theorem failEnc_frames (c : EncCode) (s : State) : (failEnc c s).frames = s.frames := rfl

@[simp] theorem applyReset_cfg (s : State) : (applyReset s).cfg = s.cfg := rfl
@[simp] theorem applyReset_rxf (s : State) : (applyReset s).rxf = [] := rfl
@[simp] theorem applyReset_rxsize (s : State) : (applyReset s).rxsize = some 0 := rfl
@[simp] theorem applyReset_dstat (s : State) : (applyReset s).dstat = 0 := rfl
@[simp] theorem applyReset_txf (s : State) : (applyReset s).txf = [] := rfl
@[simp] theorem applyReset_estat (s : State) : (applyReset s).estat = 0 := rfl
@[simp] theorem applyReset_inputs (s : State) : (applyReset s).inputs = s.inputs := rfl
@[simp] theorem applyReset_events (s : State) : (applyReset s).events = s.events := rfl
@[simp] theorem applyReset_frames (s : State) : (applyReset s).frames = s.frames := rfl

end Sys2Proof.Machine
end

