-- ==== Sys2Proof/Laws/Memory.lean ====
section
/-! SUPPORT. The laws of a frame register as memory: read after write, what the operations do to a memory that
lists a run of bytes, and that every operation keeps the canonical form. -/

namespace Sys2Proof.Machine

@[simp] theorem Memory.read_nil (k : Nat) : Memory.read [] k = none := rfl

theorem Memory.read_cons (a k : Nat) (b : Byte) (m : Memory) :
    Memory.read ((a, b) :: m) k = if a = k then some b else Memory.read m k := rfl

/-- A byte just written reads back. -/
theorem Memory.read_write_same (m : Memory) (k : Nat) (b : Byte) :
    Memory.read (Memory.write m k b) k = some b := by
  induction m with
  | nil => simp [Memory.write, Memory.read]
  | cons c m ih =>
    obtain ⟨a, c⟩ := c
    simp only [Memory.write]
    split
    · simp [Memory.read]
    · split
      · simp [Memory.read]
      · rename_i h
        simp [Memory.read, Ne.symm h, ih]

/-- A write leaves every other offset alone. -/
theorem Memory.read_write_other (m : Memory) {k j : Nat} (b : Byte) (h : k ≠ j) :
    Memory.read (Memory.write m k b) j = Memory.read m j := by
  induction m with
  | nil => simp [Memory.write, Memory.read, h]
  | cons c m ih =>
    obtain ⟨a, c⟩ := c
    simp only [Memory.write]
    split
    · simp [Memory.read, h]
    · split
      · subst_vars
        simp [Memory.read, h]
      · simp [Memory.read, ih]

/-- A run leaves every offset outside it alone. -/
theorem Memory.read_writeRun_outside (bs : List Byte) (m : Memory) (k j : Nat)
    (h : j < k ∨ k + bs.length ≤ j) :
    Memory.read (Memory.writeRun m k bs) j = Memory.read m j := by
  induction bs generalizing m k with
  | nil => rfl
  | cons b bs ih =>
    simp only [List.length_cons] at h
    rw [Memory.writeRun, ih _ _ (by omega), Memory.read_write_other _ _ (by omega)]

/-- A run just written reads back byte by byte. -/
theorem Memory.read_writeRun_inside (bs : List Byte) (m : Memory) (k i : Nat) (h : i < bs.length) :
    Memory.read (Memory.writeRun m k bs) (k + i) = bs[i]? := by
  induction bs generalizing m k i with
  | nil => simp at h
  | cons b bs ih =>
    cases i with
    | zero =>
      rw [Memory.writeRun, Memory.read_writeRun_outside _ _ _ _ (by omega)]
      simpa using Memory.read_write_same m k b
    | succ i =>
      simp only [List.length_cons] at h
      have := ih (Memory.write m k b) (k + 1) i (by omega)
      rw [Memory.writeRun, show k + (i + 1) = k + 1 + i by omega, this]
      simp

/-- What a listed run of bytes reads as. -/
theorem Memory.read_ofBytes (bs : List Byte) (k i : Nat) :
    Memory.read (Memory.ofBytes k bs) i = if k ≤ i then bs[i - k]? else none := by
  induction bs generalizing k with
  | nil => simp [Memory.ofBytes]
  | cons b bs ih =>
    rw [Memory.ofBytes, Memory.read_cons, ih]
    rcases Nat.lt_trichotomy k i with h | h | h
    · obtain ⟨d, rfl⟩ : ∃ d, i = k + 1 + d := ⟨i - (k + 1), by omega⟩
      rw [if_neg (by omega), if_pos (by omega), if_pos (by omega), Nat.add_sub_cancel_left,
        show k + 1 + d - k = d + 1 by omega, List.getElem?_cons_succ]
    · simp [h]
    · simp [show ¬ k ≤ i by omega, show ¬ k + 1 ≤ i by omega, show k ≠ i by omega]

@[simp] theorem Memory.read_ofBytes_zero (bs : List Byte) (i : Nat) :
    Memory.read (Memory.ofBytes 0 bs) i = bs[i]? := by
  simp [Memory.read_ofBytes]

theorem Memory.map_fst_ofBytes (bs : List Byte) (k : Nat) :
    (Memory.ofBytes k bs).map Prod.fst = List.range' k bs.length := by
  induction bs generalizing k with
  | nil => rfl
  | cons b bs ih => simp [Memory.ofBytes, ih, List.range'_succ]

@[simp] theorem Memory.map_snd_ofBytes (bs : List Byte) (k : Nat) :
    (Memory.ofBytes k bs).map Prod.snd = bs := by
  induction bs generalizing k with
  | nil => rfl
  | cons b bs ih => simp [Memory.ofBytes, ih]

/-- A memory that lists consecutive offsets from `k` up is the run of its bytes. -/
theorem Memory.eq_ofBytes_of_fst (m : Memory) (k n : Nat) (h : m.map Prod.fst = List.range' k n) :
    m = Memory.ofBytes k (m.map Prod.snd) := by
  induction m generalizing k n with
  | nil => rfl
  | cons c m ih =>
    obtain ⟨a, b⟩ := c
    cases n with
    | zero => simp at h
    | succ n =>
      simp only [List.map_cons, List.range'_succ, List.cons.injEq] at h
      obtain ⟨rfl, h⟩ := h
      simp only [List.map_cons, Memory.ofBytes]
      rw [← ih _ _ h]

/-- Writing inside a listed run replaces that byte of the run. -/
theorem Memory.write_ofBytes (bs : List Byte) (k i : Nat) (b : Byte) (h : i < bs.length) :
    Memory.write (Memory.ofBytes k bs) (k + i) b = Memory.ofBytes k (bs.set i b) := by
  induction bs generalizing k i with
  | nil => simp at h
  | cons c bs ih =>
    cases i with
    | zero => simp [Memory.ofBytes, Memory.write]
    | succ i =>
      simp only [List.length_cons] at h
      have := ih (k + 1) i (by omega)
      rw [show k + 1 + i = k + (i + 1) by omega] at this
      simp [Memory.ofBytes, Memory.write, this, show ¬ k + (i + 1) < k by omega]

theorem Memory.write_ofBytes_zero (bs : List Byte) (i : Nat) (b : Byte) (h : i < bs.length) :
    Memory.write (Memory.ofBytes 0 bs) i b = Memory.ofBytes 0 (bs.set i b) := by
  simpa using Memory.write_ofBytes bs 0 i b h

/-- Writing a run inside a listed run replaces that part of it. -/
theorem Memory.writeRun_ofBytes_zero (r bs : List Byte) (k : Nat) (h : k + r.length ≤ bs.length) :
    Memory.writeRun (Memory.ofBytes 0 bs) k r
      = Memory.ofBytes 0 (bs.take k ++ r ++ bs.drop (k + r.length)) := by
  induction r generalizing bs k with
  | nil => simp [Memory.writeRun]
  | cons b r ih =>
    simp only [List.length_cons] at h
    rw [Memory.writeRun, Memory.write_ofBytes_zero _ _ _ (by omega),
      ih _ _ (by simp only [List.length_set]; omega)]
    congr 1
    rw [List.take_add_one, List.drop_set, if_pos (by omega), List.getElem?_set_self (by omega),
      List.take_set_of_le (by omega)]
    simp [Nat.add_assoc, Nat.add_comm 1]

theorem Memory.readRun_ofBytes (bs : List Byte) (off n : Nat) (h : off + n ≤ bs.length) :
    Memory.readRun (Memory.ofBytes 0 bs) off n = some ((bs.drop off).take n) := by
  induction n generalizing off with
  | zero => simp [Memory.readRun]
  | succ n ih =>
    have hlt : off < bs.length := by omega
    rw [Memory.readRun, ih (off + 1) (by omega), Memory.read_ofBytes_zero,
      List.getElem?_eq_getElem hlt, List.drop_eq_getElem_cons hlt, List.take_succ_cons]

/-- Reading every offset of a listed run gives the run. -/
theorem Memory.filterMap_read_ofBytes (bs : List Byte) :
    (List.range bs.length).filterMap (Memory.read (Memory.ofBytes 0 bs)) = bs := by
  have : ∀ n ≤ bs.length,
      (List.range n).filterMap (Memory.read (Memory.ofBytes 0 bs)) = bs.take n := by
    intro n
    induction n with
    | zero => simp
    | succ n ih =>
      intro hn
      rw [List.range_succ, List.filterMap_append, ih (by omega), List.take_add_one,
        List.getElem?_eq_getElem (show n < bs.length by omega)]
      simp [List.getElem?_eq_getElem (show n < bs.length by omega)]
  simpa using this bs.length (Nat.le_refl _)

/-- A frame register that lists all 64 offsets is copied out whole. -/
theorem frameBytes_ofBytes (bs : List Byte) (h : bs.length = frameSize) :
    frameBytes (Memory.ofBytes 0 bs) = bs := by
  rw [frameBytes, ← h]
  exact Memory.filterMap_read_ofBytes bs

/-! ## The canonical form -/

theorem Memory.risingFrom_mono (m : Memory) {j k : Nat} (hjk : j ≤ k)
    (h : Memory.risingFrom k m = true) : Memory.risingFrom j m = true := by
  cases m with
  | nil => rfl
  | cons c m =>
    simp only [Memory.risingFrom, Bool.and_eq_true, decide_eq_true_eq] at h ⊢
    exact ⟨⟨by omega, h.1.2⟩, h.2⟩

theorem Memory.risingFrom_ofBytes (bs : List Byte) (k : Nat) (h : k + bs.length ≤ frameSize) :
    Memory.risingFrom k (Memory.ofBytes k bs) = true := by
  induction bs generalizing k with
  | nil => rfl
  | cons b bs ih =>
    simp only [List.length_cons] at h
    simp only [Memory.ofBytes, Memory.risingFrom, Bool.and_eq_true, decide_eq_true_eq]
    exact ⟨⟨Nat.le_refl k, by omega⟩, ih _ (by omega)⟩

theorem Memory.wf_ofBytes (bs : List Byte) (h : bs.length ≤ frameSize) :
    (Memory.ofBytes 0 bs).wf = true :=
  Memory.risingFrom_ofBytes bs 0 (by omega)

theorem Memory.risingFrom_write (m : Memory) (j k : Nat) (b : Byte) (hj : j ≤ k)
    (hk : k < frameSize) (h : Memory.risingFrom j m = true) :
    Memory.risingFrom j (Memory.write m k b) = true := by
  induction m generalizing j with
  | nil => simpa [Memory.write, Memory.risingFrom] using ⟨hj, hk⟩
  | cons c m ih =>
    obtain ⟨a, c⟩ := c
    simp only [Memory.risingFrom, Bool.and_eq_true, decide_eq_true_eq] at h
    obtain ⟨⟨hja, haf⟩, hm⟩ := h
    simp only [Memory.write]
    split
    · simp only [Memory.risingFrom, Bool.and_eq_true, decide_eq_true_eq]
      exact ⟨⟨hj, hk⟩, ⟨by omega, haf⟩, hm⟩
    · split
      · subst_vars
        simp only [Memory.risingFrom, Bool.and_eq_true, decide_eq_true_eq]
        exact ⟨⟨hja, hk⟩, hm⟩
      · simp only [Memory.risingFrom, Bool.and_eq_true, decide_eq_true_eq]
        exact ⟨⟨hja, haf⟩, ih _ (by omega) hm⟩

/-- A write inside the frame keeps the canonical form. -/
theorem Memory.wf_write (m : Memory) (k : Nat) (b : Byte) (hk : k < frameSize) (h : m.wf = true) :
    (Memory.write m k b).wf = true :=
  Memory.risingFrom_write m 0 k b (Nat.zero_le k) hk h

/-- A run written inside the frame keeps the canonical form. -/
theorem Memory.wf_writeRun (bs : List Byte) (m : Memory) (k : Nat)
    (hk : k + bs.length ≤ frameSize) (h : m.wf = true) : (Memory.writeRun m k bs).wf = true := by
  induction bs generalizing m k with
  | nil => exact h
  | cons b bs ih =>
    simp only [List.length_cons] at hk
    exact ih _ _ (by omega) (Memory.wf_write _ _ _ (by omega) h)

/-- The memory at reset has the canonical form. -/
theorem Memory.wf_reset : State.reset.rxf.wf = true ∧ State.reset.txf.wf = true := ⟨rfl, rfl⟩

end Sys2Proof.Machine
end

