-- ==== Sys2Proof/Laws/Reads.lean ====
section
/-! SUPPORT. One lemma per read primitive and per way a transaction ends: everything each can do. -/

namespace Sys2Proof.Machine

/-- After the load step the received frame is the bytes offered. -/
theorem loaded_load (f : List Byte) (s : State) (h : f.length ≤ frameSize) :
    Loaded (load f s) f :=
  ⟨rfl, rfl, h⟩

/-- `RdB` on a loaded frame: the byte, or `E_SHORT` at or beyond the end. -/
theorem rdB_loaded {s : State} {f : List Byte} (h : Loaded s f) (off : Nat) :
    rdB s off = match f[off]? with
      | some b => .ok b
      | none => .error .eShort := by
  obtain ⟨h1, h2, -⟩ := h
  by_cases hlt : off < f.length
  · simp [rdB, h1, h2, List.getElem?_eq_getElem hlt, show ¬ f.length ≤ off by omega]
  · simp [rdB, h2, show f.length ≤ off by omega]

/-- `RdBytes` on a loaded frame: the run, or `E_SHORT` when it does not lie wholly inside. -/
theorem rdBytes_loaded {s : State} {f : List Byte} (h : Loaded s f) (off n : Nat) :
    rdBytes s off n =
      if off + n ≤ f.length then .ok ((f.drop off).take n) else .error .eShort := by
  obtain ⟨h1, h2, -⟩ := h
  by_cases hle : off + n ≤ f.length
  · simp [rdBytes, h1, h2, hle, Memory.readRun_ofBytes _ _ _ hle,
      show ¬ f.length < off + n by omega]
  · simp [rdBytes, h2, hle, show f.length < off + n by omega]

/-- `RdLE` on a loaded frame: the value of the run, or `E_SHORT`. -/
theorem rdLE_loaded {s : State} {f : List Byte} (h : Loaded s f) (off n : Nat) :
    rdLE s off n =
      if off + n ≤ f.length then .ok (leValue ((f.drop off).take n)) else .error .eShort := by
  rw [rdLE, rdBytes_loaded h]
  by_cases hle : off + n ≤ f.length <;> simp [hle]

/-- The header switch sees exactly the loaded frame. -/
theorem receivedBytes_loaded {s : State} {f : List Byte} (h : Loaded s f) :
    receivedBytes s = f := by
  obtain ⟨h1, h2, -⟩ := h
  simp only [receivedBytes, h1, h2]
  exact Memory.filterMap_read_ofBytes f

/-- An `n`-byte little-endian value is below `256^n`. -/
theorem leValue_lt (bs : List Byte) : leValue bs < 256 ^ bs.length := by
  induction bs with
  | nil => simp [leValue]
  | cons b bs ih =>
    have := b.isLt
    simp only [leValue, List.length_cons, Nat.pow_succ]
    omega

@[simp] theorem elements_length (es n : Nat) (raw : List Byte) : (elements es n raw).length = n := by
  simp [elements]

@[simp] theorem leBytes_length (n v : Nat) : (leBytes n v).length = n := by
  simp [leBytes]

/-- The three ways a `DEC` ends: one event and `EMITTED`, an ignore code and no event, a failure and no event. -/
theorem finishDec_cases (r : Except DecCode DecDone) (s : State) :
    (∃ e, r = .ok (.event e) ∧ finishDec r s = doneDec .emitted (emit e s)) ∨
    (∃ c, r = .ok (.ignored c) ∧ finishDec r s = doneDec c s) ∨
    (∃ c, r = .error c ∧ finishDec r s = failDec c s) := by
  rcases r with c | e | c
  · exact .inr (.inr ⟨c, rfl, rfl⟩)
  · exact .inl ⟨e, rfl, rfl⟩
  · exact .inr (.inl ⟨c, rfl, rfl⟩)

/-- Everything `DEC` can do (40_decode_dispatch.md R84). -/
theorem runDec_cases (buf : List Byte) (size : Word) (s : State) :
    (frameSize < size.toNat ∧ runDec buf size s = .next (failDec .eTooLarge (unload s))) ∨
    (size.toNat ≤ frameSize ∧ buf.length < size.toNat ∧
      runDec buf size s = .refused .bufferShorterThanSize) ∨
    (size.toNat ≤ frameSize ∧ size.toNat ≤ buf.length ∧
      runDec buf size s
        = runPacket (.frame (buf.take size.toNat)) (load (buf.take size.toNat) s)) := by
  by_cases h1 : frameSize < size.toNat
  · exact .inl ⟨h1, by simp [runDec, h1]⟩
  · by_cases h2 : buf.length < size.toNat
    · exact .inr (.inl ⟨by omega, h2, by simp [runDec, h1, h2]⟩)
    · refine .inr (.inr ⟨by omega, by omega, ?_⟩)
      have hl : (buf.take size.toNat).length ≤ frameSize := by
        rw [List.length_take]; omega
      simp [runDec, h1, h2, receivedBytes_loaded (loaded_load _ s hl)]

end Sys2Proof.Machine
end

