-- ==== Sys2Proof/Laws/Encoding.lean ====
section
/-! SUPPORT. What the constraints on the parameters give the decoder. -/

namespace Sys2Proof

/-- The seven opcodes of a legal configuration are pairwise different (00_scope.md R7). -/
theorem Config.Legal.opcodes_ne {c : Config} (h : c.Legal) :
    (c.opData ≠ c.opStop ∧ c.opData ≠ c.opStartClockwise ∧ c.opData ≠ c.opStartCounterClockwise ∧
      c.opData ≠ c.opStartAutoSwitcher ∧ c.opData ≠ c.opSetModuleIdData ∧
      c.opData ≠ c.opGetModuleIdData) ∧
    (c.opStop ≠ c.opStartClockwise ∧ c.opStop ≠ c.opStartCounterClockwise ∧
      c.opStop ≠ c.opStartAutoSwitcher ∧ c.opStop ≠ c.opSetModuleIdData ∧
      c.opStop ≠ c.opGetModuleIdData) ∧
    (c.opStartClockwise ≠ c.opStartCounterClockwise ∧
      c.opStartClockwise ≠ c.opStartAutoSwitcher ∧ c.opStartClockwise ≠ c.opSetModuleIdData ∧
      c.opStartClockwise ≠ c.opGetModuleIdData) ∧
    (c.opStartCounterClockwise ≠ c.opStartAutoSwitcher ∧
      c.opStartCounterClockwise ≠ c.opSetModuleIdData ∧
      c.opStartCounterClockwise ≠ c.opGetModuleIdData) ∧
    (c.opStartAutoSwitcher ≠ c.opSetModuleIdData ∧ c.opStartAutoSwitcher ≠ c.opGetModuleIdData) ∧
    c.opSetModuleIdData ≠ c.opGetModuleIdData := by
  have := h.1
  simp only [Config.opcodes, List.nodup_cons, List.mem_cons, List.not_mem_nil, or_false,
    not_or] at this
  tauto

@[simp] theorem keyFrame_length (header flags : Byte) :
    (keyFrame header flags).length = frameSize := rfl

@[simp] theorem keyFrame_header (header flags : Byte) : (keyFrame header flags)[0]? = some header :=
  rfl

@[simp] theorem keyFrame_flags (header flags : Byte) : (keyFrame header flags)[2]? = some flags :=
  rfl

end Sys2Proof
end

