-- ==== Sys2Proof/Laws/PerInstr.lean ====
section
/-! SUPPORT. The family of statements made instruction by instruction: what the encoding of each instruction
looks like. -/

namespace Sys2Proof.Laws.EncodedShape

/-- A receive row encodes as a whole frame, a transmit row as a request whose `op` is one of the opcodes other
than `OP_DATA` (spec/30_encoding.md R50, R63). -/
def Statement (i : Instr) : Prop :=
  ∀ c : Config, c.Legal → WellFormed c i = true →
    match encode c i with
    | .frame bytes => bytes.length = frameSize
    | .request op _ => op ∈ c.opcodes ∧ op ≠ c.opData

theorem rxData8 : Statement .rxData8 := fun _ _ _ => rfl
theorem rxData16 : Statement .rxData16 := fun _ _ _ => rfl
theorem rxData32 : Statement .rxData32 := fun _ _ _ => rfl
theorem rxDataRsv : Statement .rxDataRsv := fun _ _ _ => rfl
theorem rxGetModuleIdData : Statement .rxGetModuleIdData := fun _ _ _ => rfl
theorem rxStop : Statement .rxStop := fun _ _ _ => rfl
theorem rxStartClockwise : Statement .rxStartClockwise := fun _ _ _ => rfl
theorem rxStartCounterClockwise : Statement .rxStartCounterClockwise := fun _ _ _ => rfl
theorem rxStartAutoSwitcher : Statement .rxStartAutoSwitcher := fun _ _ _ => rfl
theorem rxSetModuleIdData : Statement .rxSetModuleIdData := fun _ _ _ => rfl
theorem rxUnknown (header : Byte) : Statement (.rxUnknown header) := fun _ _ _ => rfl

theorem txStop (channel : Byte) : Statement (.txStop channel) := fun c h _ => by
  have := h.opcodes_ne
  simp [encode, Config.opcodes, this.1.1.symm]

theorem txStartClockwise (channel : Byte) : Statement (.txStartClockwise channel) := fun c h _ => by
  have := h.opcodes_ne
  simp [encode, Config.opcodes, this.1.2.1.symm]

theorem txStartCounterClockwise (channel : Byte) : Statement (.txStartCounterClockwise channel) :=
  fun c h _ => by
    have := h.opcodes_ne
    simp [encode, Config.opcodes, this.1.2.2.1.symm]

theorem txStartAutoSwitcher (channel : Byte) (offTime onTime : Half) (count : Word) :
    Statement (.txStartAutoSwitcher channel offTime onTime count) := fun c h _ => by
  have := h.opcodes_ne
  simp [encode, Config.opcodes, this.1.2.2.2.1.symm]

theorem txSetModuleIdData (moduleId : Byte) (data : Vector Byte moduleDataMax) (len : Byte) :
    Statement (.txSetModuleIdData moduleId data len) := fun c h _ => by
  have := h.opcodes_ne
  simp [encode, Config.opcodes, this.1.2.2.2.2.1.symm]

theorem txGetModuleIdData (moduleId reqLen : Byte) :
    Statement (.txGetModuleIdData moduleId reqLen) := fun c h _ => by
  have := h.opcodes_ne
  simp [encode, Config.opcodes, this.1.2.2.2.2.2.symm]

end Sys2Proof.Laws.EncodedShape
end

