-- ==== Sys2Proof/Laws/Receive.lean ====
section
/-! SUPPORT. What the operands of a received instruction are when a frame is loaded, and that every instruction
completes. -/

namespace Sys2Proof.Machine

/-- A one-byte value inside a run of bytes (20_memory.md R33). -/
theorem leValue_take_one (raw : List Byte) (k : Nat) (h : k + 1 ≤ raw.length) :
    leValue ((raw.drop k).take 1) = (raw.getD k 0).toNat := by
  rw [List.drop_eq_getElem_cons (by omega)]
  simp only [List.take_succ_cons, List.take_zero, leValue,
    List.getD_eq_getElem _ _ (show k < raw.length by omega)]
  omega

/-- A two-byte value inside a run of bytes (20_memory.md R33). -/
theorem leValue_take_two (raw : List Byte) (k : Nat) (h : k + 2 ≤ raw.length) :
    leValue ((raw.drop k).take 2) = (raw.getD k 0).toNat + 256 * (raw.getD (k + 1) 0).toNat := by
  rw [List.drop_eq_getElem_cons (by omega), List.drop_eq_getElem_cons (by omega)]
  simp only [List.take_succ_cons, List.take_zero, leValue,
    List.getD_eq_getElem _ _ (show k < raw.length by omega),
    List.getD_eq_getElem _ _ (show k + 1 < raw.length by omega)]
  omega

/-- A four-byte value inside a run of bytes (20_memory.md R33). -/
theorem leValue_take_four (raw : List Byte) (k : Nat) (h : k + 4 ≤ raw.length) :
    leValue ((raw.drop k).take 4) =
      (raw.getD k 0).toNat + 256 * (raw.getD (k + 1) 0).toNat
        + 65536 * (raw.getD (k + 2) 0).toNat + 16777216 * (raw.getD (k + 3) 0).toNat := by
  rw [List.drop_eq_getElem_cons (by omega), List.drop_eq_getElem_cons (by omega),
    List.drop_eq_getElem_cons (by omega), List.drop_eq_getElem_cons (by omega)]
  simp only [List.take_succ_cons, List.take_zero, leValue, Nat.add_assoc, Nat.reduceAdd,
    List.getD_eq_getElem _ _ (show k < raw.length by omega),
    List.getD_eq_getElem _ _ (show k + 1 < raw.length by omega),
    List.getD_eq_getElem _ _ (show k + 2 < raw.length by omega),
    List.getD_eq_getElem _ _ (show k + 3 < raw.length by omega)]
  omega

/-- Cutting the data to the bytes the elements cover does not change an element. -/
theorem elements_take (es n : Nat) (raw : List Byte) :
    elements es n (raw.take (es * n)) = elements es n raw := by
  apply List.map_congr_left
  intro j hj
  have hm : es * (j + 1) ≤ es * n := Nat.mul_le_mul_left _ (List.mem_range.mp hj)
  rw [Nat.mul_add, Nat.mul_one] at hm
  rw [List.drop_take, List.take_take, Nat.min_eq_left (by omega)]

/-- One-byte elements are the bytes themselves. -/
theorem elements_one (n : Nat) (raw : List Byte) (h : n ≤ raw.length) :
    (elements 1 n raw).map (BitVec.ofNat 8) = raw.take n := by
  apply List.ext_getElem
  · simp [h]
  · intro i h1 h2
    simp only [List.length_map, elements_length] at h1
    simp only [elements, List.getElem_map, List.getElem_range, Nat.one_mul]
    rw [leValue_take_one _ _ (by omega), List.getD_eq_getElem _ _ (by omega)]
    simp

/-- The fields of a `DATA` frame (41_decode_data.md R100, R101, R108): `E_SHORT` unless the five fixed bytes and
the bytes of all whole elements are there. -/
theorem dataFields_loaded {s : State} {f : List Byte} (h : Loaded s f) (es : Nat) :
    dataFields es s =
      match f with
      | _ :: ch :: _ :: c0 :: c1 :: data =>
        let n := (c0.toNat + 256 * c1.toNat) / es
        if es * n ≤ data.length then .ok (ch, elements es n data) else .error .eShort
      | _ => .error .eShort := by
  rcases f with _ | ⟨a, _ | ⟨ch, _ | ⟨fl, _ | ⟨c0, _ | ⟨c1, data⟩⟩⟩⟩⟩
  case cons.cons.cons.cons.cons =>
    simp only [dataFields, rdB_loaded h, rdLE_loaded h, rdBytes_loaded h, bind, Except.bind, pure,
      Except.pure, dataOffset]
    generalize hn : (c0.toNat + 256 * c1.toNat) / es = n
    by_cases hle : es * n ≤ data.length
    · have : 5 + es * n ≤ data.length + 1 + 1 + 1 + 1 + 1 := by omega
      simp [leValue, hn, hle, this, elements_take]
    · have : ¬ 5 + es * n ≤ data.length + 1 + 1 + 1 + 1 + 1 := by omega
      simp [leValue, hn, hle, this]
  all_goals simp [dataFields, rdB_loaded h, rdLE_loaded h, bind, Except.bind]

/-- The outcome of `GET_MODULE_ID_DATA` (42_decode_module_id.md R121, R122). -/
theorem moduleReply_loaded {s : State} {f : List Byte} (h : Loaded s f) :
    moduleReply s =
      match f with
      | _ :: m :: len :: rest =>
        if 20 < len.toNat then .error .eLenBounds
        else if rest.length < len.toNat then .error .eShort
        else .ok (if m = 0 then .event (.coldPaletteModuleData (rest.take len.toNat))
          else if m = s.cfg.modIdRgbCap then .event (.rgbCapModuleData (rest.take len.toNat))
          else .ignored .ignModule)
      | _ => .error .eShort := by
  rcases f with _ | ⟨a, _ | ⟨m, _ | ⟨len, rest⟩⟩⟩ <;>
    simp only [moduleReply, rdB_loaded h, rdBytes_loaded h, bind, Except.bind, pure, Except.pure,
      moduleDataMax, moduleDataOffset, modIdColdPalette]
  case cons.cons.cons =>
    by_cases h1 : 20 < len.toNat
    · simp [h1]
    · by_cases h2 : rest.length < len.toNat
      · have : ¬ 3 + len.toNat ≤ rest.length + 1 + 1 + 1 := by omega
        simp [h1, h2, this]
      · have : 3 + len.toNat ≤ rest.length + 1 + 1 + 1 := by omega
        simp only [List.length_cons, h1, h2, if_false]
        simp only [List.drop_succ_cons, List.drop_zero, List.getElem?_cons_succ,
          List.getElem?_cons_zero]
        split_ifs <;> simp_all
  all_goals simp

/-- No instruction stops: every meaning has a next state from every state. -/
theorem exec_completes (i : Instr) (s : State) : ∃ t, exec i s = .next t := by
  cases i
  case txSetModuleIdData m d l =>
    by_cases h : moduleDataMax < l.toNat
    · exact ⟨_, if_pos h⟩
    · exact ⟨_, if_neg h⟩
  case txGetModuleIdData m l =>
    by_cases h : moduleDataMax < l.toNat
    · exact ⟨_, if_pos h⟩
    · exact ⟨_, if_neg h⟩
  all_goals exact ⟨_, rfl⟩

/-- A packet is always run to a next state. -/
theorem runPacket_completes (p : Packet) (s : State) : ∃ t, runPacket p s = .next t := by
  unfold runPacket
  split
  · exact exec_completes _ _
  · exact ⟨_, rfl⟩

end Sys2Proof.Machine
end

