-- ==== Sys2Proof/Laws/Transmit.lean ====
section
/-! SUPPORT. Building and sending a frame: while the frame register lists a whole frame, each write replaces
bytes of that frame, and sending hands the frame over. -/

namespace Sys2Proof.Machine

/-- The encoder's frame register holds exactly the bytes of `f`, as it does from the zeroing to the end of a
successful encode (44_encode_common.md R143). -/
def building (f : List Byte) (s : State) : State := { s with txf := Memory.ofBytes 0 f }

theorem zeroFrame_eq (s : State) : zeroFrame s = building (List.replicate 64 0) s := rfl

theorem wrB_building (f : List Byte) (s : State) (off : Nat) (v : Byte) (h : off < f.length) :
    wrB off v (building f s) = building (f.set off v) s := by
  simp only [wrB, building, Memory.write_ofBytes_zero _ _ _ h]

theorem wrBytes_building (f bytes : List Byte) (s : State) (off : Nat)
    (h : off + bytes.length ≤ f.length) :
    wrBytes off bytes (building f s)
      = building (f.take off ++ bytes ++ f.drop (off + bytes.length)) s := by
  simp only [wrBytes, building, Memory.writeRun_ofBytes_zero _ _ _ h]

theorem wrLE_building (f : List Byte) (s : State) (off n v : Nat) (h : off + n ≤ f.length) :
    wrLE off n v (building f s)
      = building (f.take off ++ leBytes n v ++ f.drop (off + n)) s := by
  rw [wrLE, wrBytes_building _ _ _ _ (by simpa using h), leBytes_length]

/-- Sending hands over the frame that was built and reports `SENT` (44_encode_common.md R143 steps 5 and 6). -/
theorem sendDone_building (f : List Byte) (s : State) (h : f.length = frameSize) :
    sendDone (building f s)
      = { s with txf := Memory.ofBytes 0 f, estat := 0x11, frames := s.frames ++ [f] } := by
  simp only [sendDone, setEstat, building, frameBytes_ofBytes _ h]
  rfl

/-- What the shared body of the three channel commands does (45_encode_channel.md R150). -/
theorem encChannel_eq (opc channel : Byte) (s : State) :
    encChannel opc channel s
      = { s with
          txf := Memory.ofBytes 0 ([opc, channel] ++ List.replicate 62 0)
          estat := 0x11
          frames := s.frames ++ [[opc, channel] ++ List.replicate 62 0] } := by
  rw [encChannel, zeroFrame_eq, wrB_building _ _ _ _ (by simp), wrB_building _ _ _ _ (by simp),
    sendDone_building _ _ (by simp)]
  rfl

end Sys2Proof.Machine
end

