-- ==== Sys2Proof/Tests/Slice0.lean ====
section
/-! SUPPORT. Tests of the model. Every expected value is the spec's own (95_test_vectors.md, by its id) or follows
by hand from the rule named. Second part: states and operands that meet the hypotheses of the statements. -/

namespace Sys2Proof.Tests

open Sys2Proof Sys2Proof.Machine

/-! ## Helpers -/

/-- The state after a step that has one. -/
def afterStep (o : Host.Outcome State Fault Refusal) : Option State :=
  match o with
  | .next t => some t
  | .fault _ => none
  | .refused _ => none

/-- The reset state with one transaction presented. -/
def given (t : Transaction) : State := { State.reset with inputs := [t] }

/-- What a receive transaction of exactly these bytes answers: DSTAT and the events. -/
def rx (bytes : List Byte) : Option (Byte × List Event) :=
  (afterStep (step (given (.dec bytes (BitVec.ofNat 32 bytes.length))))).map
    fun t => (t.dstat, t.events)

/-- What a transmit request answers: ESTAT and the frames. -/
def tx (op : Byte) (a : Args) : Option (Byte × List (List Byte)) :=
  (afterStep (step (given (.enc op a)))).map fun t => (t.estat, t.frames)

/-- `n` zero bytes. -/
def z (n : Nat) : List Byte := List.replicate n 0

/-- The frame F59 of 95_test_vectors.md: channel 5, data bytes 1 to 59. -/
def f59 (flags count : Byte) : List Byte :=
  [0, 5, flags, count, 0] ++ (List.range 59).map fun k => BitVec.ofNat 8 (k + 1)

/-- A 20-byte data operand that starts with the given bytes. -/
def data20 (bytes : List Byte) : Vector Byte moduleDataMax := Vector.ofFn fun k => bytes.getD k 0

/-! ## Configurations and instructions that are refused -/

theorem test_default_config_is_legal : Config.default.Legal := by decide

/-- R7: pairwise different. -/
theorem test_two_equal_opcodes_are_illegal : ¬ { Config.default with opStop := 0 }.Legal := by
  decide

/-- R7: none equals 5. -/
theorem test_opcode_five_is_illegal : ¬ { Config.default with opStop := 5 }.Legal := by decide

/-- R7: the module ids differ. -/
theorem test_equal_module_ids_are_illegal : ¬ { Config.default with modIdRgbCap := 0 }.Legal := by
  decide

/-- R133: a header that is an opcode is not UNKNOWN. -/
theorem test_unknown_with_an_opcode_is_ill_formed :
    WellFormed Config.default (.rxUnknown 0x07) = false := by decide

theorem test_unknown_five_is_well_formed :
    WellFormed Config.default (.rxUnknown 0x05) = true := by decide

theorem test_unordered_memory_is_ill_formed : Memory.wf [(1, 0), (0, 0)] = false := by decide

theorem test_repeated_offset_is_ill_formed : Memory.wf [(3, 0), (3, 1)] = false := by decide

theorem test_offset_outside_the_frame_is_ill_formed :
    Memory.wf [(64, 0)] = false ∧ Memory.wf [(63, 0)] = true := by decide

/-! ## Decoding, words written out from the spec's layouts -/

/-- R52, R53, R57: header 0, tag in bits 1:0 of offset 2, bits 7:2 ignored. -/
theorem test_decode_data_rows :
    decode Config.default (.frame [0, 9, 0b11111100, 0, 0]) = .ok .rxData8 ∧
    decode Config.default (.frame [0, 9, 0b11111101, 0, 0]) = .ok .rxData16 ∧
    decode Config.default (.frame [0, 9, 0b11111110, 0, 0]) = .ok .rxData32 ∧
    decode Config.default (.frame [0, 9, 0b11111111, 0, 0]) = .ok .rxDataRsv := by decide

/-- R52: headers 1, 2, 3, 4, 6 and 7, one byte each. -/
theorem test_decode_other_headers :
    decode Config.default (.frame [1]) = .ok .rxStop ∧
    decode Config.default (.frame [2]) = .ok .rxStartClockwise ∧
    decode Config.default (.frame [3]) = .ok .rxStartCounterClockwise ∧
    decode Config.default (.frame [4]) = .ok .rxStartAutoSwitcher ∧
    decode Config.default (.frame [6]) = .ok .rxSetModuleIdData ∧
    decode Config.default (.frame [7]) = .ok .rxGetModuleIdData ∧
    decode Config.default (.frame [0xFF]) = .ok (.rxUnknown 0xFF) := by decide

/-- R82, R83, R142: what names no instruction. -/
theorem test_decode_refusals :
    decode Config.default (.frame []) = .error .emptyFrame ∧
    decode Config.default (.frame [0, 7]) = .error .flagsMissing ∧
    decode Config.default (.request 0x00 Args.zero) = .error .noTxPath ∧
    decode Config.default (.request 0x05 Args.zero) = .error .noTxPath := by decide

/-- R63: each request takes its own operands. -/
theorem test_decode_requests :
    let a : Args := ⟨1, 2, 3, 4, 5, data20 [6], 7, 8⟩
    decode Config.default (.request 1 a) = .ok (.txStop 1) ∧
    decode Config.default (.request 2 a) = .ok (.txStartClockwise 1) ∧
    decode Config.default (.request 3 a) = .ok (.txStartCounterClockwise 1) ∧
    decode Config.default (.request 4 a) = .ok (.txStartAutoSwitcher 1 2 3 4) ∧
    decode Config.default (.request 6 a) = .ok (.txSetModuleIdData 5 (data20 [6]) 7) ∧
    decode Config.default (.request 7 a) = .ok (.txGetModuleIdData 5 8) := by decide

/-- R64: no two of the ten receive rows match one key; the catch-all is tried last. -/
theorem test_table_rows_do_not_overlap :
    receiveRows.Pairwise fun r q => r.value &&& q.mask &&& r.mask ≠ q.value &&& r.mask &&& q.mask := by
  decide

/-- opcode_table.json, rows of 24 and of 8 bits. -/
theorem test_table_words :
    decodeTableWord 24 0x020000 = some .rxData32 ∧
    decodeTableWord 24 0x000007 = some .rxGetModuleIdData ∧
    decodeTableWord 24 0x000005 = some (.rxUnknown 5) ∧
    decodeTableWord 8 0x03 = some (.txStartCounterClockwise 0) ∧
    decodeTableWord 8 0x05 = some (.rxUnknown 5) := by decide

/-- The encoder writes the header and the tag where R53 has them, and pads to 64 bytes (R50). -/
theorem test_encode_data16 :
    encode Config.default .rxData16 = .frame ([0, 0, 1] ++ z 61) := by decide

/-! ## The front end -/

/-- V1, V2, V4, V5, V7. -/
theorem test_front_end :
    (afterStep (step (given (.dec [] 65)))).map State.dstat = some 0x08 ∧
    (afterStep (step (given (.dec [0, 0] 4294967295)))).map State.rxsize = some none ∧
    rx [] = some (0x0A, []) ∧ rx [0] = some (0x0A, []) ∧ rx [5] = some (0x12, []) := by decide

/-- V3: a buffer longer than `size` = 64. -/
theorem test_longest_frame :
    (afterStep (step (given (.dec (z 70) 64)))).map (fun t => (t.dstat, t.events, t.rxsize))
      = some (0x11, [.data8 0 []], some 64) := by decide

/-- R221. -/
theorem test_short_buffer_is_refused :
    step (given (.dec [5] 2)) = .refused .bufferShorterThanSize := by rfl

/-- 95_test_vectors.md P2 steps 3 and 6: nothing of a longer earlier frame is read. -/
theorem test_leftover_is_not_read :
    (afterStep (step { load (z 9) State.reset with
        inputs := [.dec [0, 3, 1, 3, 0, 0xEF] 6] })).map (fun t => (t.dstat, t.events))
      = some (0x0A, []) := by decide

/-- R210: reset leaves the outputs and the parameters. -/
theorem test_reset_transaction :
    afterStep (step { load [5] State.reset with
        inputs := [.reset], dstat := 0x12, estat := 0x0B, frames := [z 64] })
      = some { State.reset with frames := [z 64] } := by decide

/-! ## Received instructions -/

/-- E1, V25. -/
theorem test_data8 :
    rx [0, 2, 0, 3, 0, 0x0A, 0x0B, 0x0C] = some (0x11, [.data8 2 [0x0A, 0x0B, 0x0C]]) ∧
    rx [0, 0xC8, 4, 2, 0, 0xAA, 0xBB] = some (0x11, [.data8 200 [0xAA, 0xBB]]) := by decide

/-- V23, V24. -/
theorem test_data8_longest :
    rx (f59 0 59) = some (0x11, [.data8 5 ((List.range 59).map fun k => BitVec.ofNat 8 (k + 1))]) ∧
    rx (f59 0 60) = some (0x0A, []) := by decide

/-- E2, V28, V31. -/
theorem test_data16 :
    rx [0, 1, 1, 4, 0, 0x34, 0x12, 0x78, 0x56] = some (0x11, [.data16 1 [0x1234, 0x5678]]) ∧
    rx [0, 3, 1, 3, 0, 0xEF, 0xBE] = some (0x11, [.data16 3 [0xBEEF]]) ∧
    rx [0, 0x85, 0xFD, 2, 0, 0x11, 0x22] = some (0x11, [.data16 133 [0x2211]]) := by decide

/-- V27, V30. -/
theorem test_data16_odd_count :
    rx [0, 1, 1, 1, 0, 0x77] = some (0x11, [.data16 1 []]) ∧
    rx [0, 3, 1, 3, 0, 0xEF] = some (0x0A, []) := by decide

/-- E3, V38. -/
theorem test_data32 :
    rx [0, 0, 2, 4, 0, 1, 0, 0, 0x80] = some (0x11, [.dataNum 0 [0x41E0000000200000]]) ∧
    rx [0, 9, 0xFE, 7, 0, 1, 2, 3, 4, 5, 6, 7, 8]
      = some (0x11, [.dataNum 9 [0x41900C0804000000]]) := by decide

/-- V41, V40. -/
theorem test_data32_unsigned :
    rx [0, 0, 2, 8, 0, 0xFF, 0xFF, 0xFF, 0xFF, 0, 0, 0, 0]
      = some (0x11, [.dataNum 0 [0x41EFFFFFFFE00000, 0]]) ∧
    rx [0, 9, 0xFE, 7, 0, 1, 2, 3] = some (0x0A, []) := by decide

/-- The table of 95_test_vectors.md 2.3. -/
theorem test_u32_to_f64 :
    [0, 1, 2, 3, 255, 65535, 65536, 16777217, 305419896, 2147483647, 4294967294].map u32ToF64 =
      [0, 0x3FF0000000000000, 0x4000000000000000, 0x4008000000000000, 0x406FE00000000000,
        0x40EFFFE000000000, 0x40F0000000000000, 0x4170000010000000, 0x41B2345678000000,
        0x41DFFFFFFFC00000, 0x41EFFFFFFFC00000] := by decide

/-- V45, V46, V6. -/
theorem test_reserved_tag :
    rx [0, 7, 0xFF, 0xFF, 0xFF] = some (0x15, []) ∧ rx [0, 7, 0xFF] = some (0x15, []) ∧
    rx [0, 7] = some (0x0A, []) := by decide

/-- E5, E8 with V74's stray byte, V71. -/
theorem test_module_reply :
    rx [7, 1, 1, 0x99] = some (0x11, [.rgbCapModuleData [0x99]]) ∧
    rx ([7, 0, 2, 0x10, 0x20, 0xEE] ++ z 58)
      = some (0x11, [.coldPaletteModuleData [0x10, 0x20]]) ∧
    rx [7, 9, 2, 0x10, 0x20] = some (0x14, []) := by decide

/-- V68, V70, V62: bound, then presence, then module. -/
theorem test_module_reply_order :
    rx [7, 0xFF, 0x15] = some (0x09, []) ∧ rx [7, 9, 0x0A, 1, 2, 3, 4, 5] = some (0x0A, []) ∧
    rx [7, 0] = some (0x0A, []) := by decide

/-- V80 to V84 and V86. -/
theorem test_ignored_opcodes :
    rx ([1, 3] ++ z 62) = some (0x13, []) ∧ rx [2] = some (0x13, []) ∧
    rx [3, 9] = some (0x13, []) ∧
    rx [4, 1, 0xF4, 1, 0xFA, 0, 0x0A, 0, 0, 0] = some (0x13, []) ∧
    rx [6, 1, 0xFF] = some (0x13, []) ∧ rx [5, 0xDE, 0xAD] = some (0x12, []) := by decide

/-! ## Transmitted instructions -/

/-- V103, V101, V102. -/
theorem test_channel_commands :
    tx 1 { Args.zero with channel := 255 } = some (0x11, [[1, 0xFF] ++ z 62]) ∧
    tx 2 { Args.zero with channel := 0 } = some (0x11, [[2, 0] ++ z 62]) ∧
    tx 3 { Args.zero with channel := 7 } = some (0x11, [[3, 7] ++ z 62]) := by decide

/-- V107. -/
theorem test_auto_switcher :
    tx 4 { Args.zero with channel := 7, offTime := 0x1234, onTime := 0xABCD, count := 0x01020304 }
      = some (0x11, [[4, 7, 0x34, 0x12, 0xCD, 0xAB, 4, 3, 2, 1] ++ z 54]) := by decide

/-- E7, V111. -/
theorem test_set_module :
    tx 6 { Args.zero with moduleId := 1, data := data20 [0xAA, 0xBB, 0xCC], len := 3 }
      = some (0x11, [[6, 1, 3, 0xAA, 0xBB, 0xCC] ++ z 58]) ∧
    tx 6 { Args.zero with data := Vector.replicate 20 0xEE, len := 2 }
      = some (0x11, [[6, 0, 2, 0xEE, 0xEE] ++ z 59]) := by decide

/-- V110, V112, V113. -/
theorem test_set_module_bounds :
    (tx 6 { Args.zero with data := Vector.replicate 20 0xEE, len := 20 })
      = some (0x11, [[6, 0, 20] ++ List.replicate 20 0xEE ++ z 41]) ∧
    tx 6 { Args.zero with len := 21 } = some (0x09, []) ∧
    tx 6 { Args.zero with len := 255 } = some (0x09, []) := by decide

/-- V114, V115, V116. -/
theorem test_module_request :
    tx 7 { Args.zero with reqLen := 20 } = some (0x11, [[7, 0, 0x14] ++ z 61]) ∧
    tx 7 { Args.zero with moduleId := 1 } = some (0x11, [[7, 1, 0] ++ z 61]) ∧
    tx 7 { Args.zero with reqLen := 21 } = some (0x09, []) := by decide

/-- V117, V118, V119. -/
theorem test_no_transmit_path :
    tx 0 Args.zero = some (0x0B, []) ∧ tx 5 Args.zero = some (0x0B, []) ∧
    tx 255 Args.zero = some (0x0B, []) := by decide

/-- R144, R146: a later frame shows nothing of an earlier one; a failure leaves TXF without value. -/
theorem test_frame_is_fresh :
    (afterStep (step { given (.enc 2 Args.zero) with txf := Memory.ofBytes 0 (List.replicate 64 9) })).map
      State.frames = some [[2] ++ z 63] ∧
    (afterStep (step { given (.enc 5 Args.zero) with txf := Memory.ofBytes 0 (z 64) })).map State.txf
      = some [] := by decide

/-- The host's way to place an instruction: the next step runs it. -/
theorem test_with_fetch_word :
    (afterStep (step (State.reset.withFetchWord 24 0x010000))).map (fun t => (t.dstat, t.events))
      = some (0x11, [.data16 0 []]) ∧
    (afterStep (step (State.reset.withFetchWord 8 0x01))).map State.frames = some [[1] ++ z 63] := by
  decide

/-! ## Hypotheses that can be met: one witness for each statement that has some, its clauses at their boundaries -/

/-- The reset state with a frame loaded. -/
def holding (f : List Byte) : State := load f State.reset

theorem holding_loaded (f : List Byte) (h : f.length ≤ frameSize) : Loaded (holding f) f :=
  ⟨rfl, rfl, h⟩

theorem witness_DecodeOfEncodeIsIdentity :
    Config.default.Legal ∧ WellFormed Config.default (.rxUnknown 0xFF) = true ∧
    WellFormed Config.default (.txStartAutoSwitcher 0xFF 0xFFFF 0xFFFF 0xFFFFFFFF) = true := by decide

theorem witness_DecodedInstructionIsWellFormed :
    decode Config.default (.frame [5]) = .ok (.rxUnknown 5) ∧
    decode Config.default (.request 7 Args.zero) = .ok (.txGetModuleIdData 0 0) := by decide

/-- `size` 64 with a buffer of 64, and `size` 1 with a longer one. -/
theorem witness_StepRunsReceivedInstruction :
    (64 : Word).toNat ≤ 64 ∧ (64 : Word).toNat ≤ (z 64).length ∧
    decode State.reset.cfg (.frame ((z 64).take (64 : Word).toNat)) = .ok .rxData8 ∧
    (1 : Word).toNat ≤ 64 ∧ (1 : Word).toNat ≤ [5, (0 : Byte)].length ∧
    decode State.reset.cfg (.frame (([5, 0] : List Byte).take (1 : Word).toNat)) = .ok (.rxUnknown 5) ∧
    (given (.dec (z 64) 64)).inputs = [.dec (z 64) 64] := by decide

theorem witness_StepRunsRequestedInstruction :
    (given (.enc 1 Args.zero)).inputs = [.enc 1 Args.zero] ∧
    decode (given (.enc 1 Args.zero)).cfg (.request 1 Args.zero) = .ok (.txStop 0) := by decide

theorem witness_IdleStepDoesNothing : State.reset.inputs = [] := rfl

/-- Both alternatives occur: `size` 2 with one byte, and `size` 65 with none. -/
theorem witness_StepStopsOnlyForShortBuffer :
    step (given (.dec [5] 2)) = .refused .bufferShorterThanSize ∧
    ∃ t, step (given (.dec [] 65)) = .next t := ⟨rfl, _, rfl⟩

/-- 65 against 64. -/
theorem witness_OversizedBufferIsRejected :
    (given (.dec [] 65)).inputs = [.dec [] 65] ∧ 64 < (65 : Word).toNat ∧
    (64 : Word).toNat ≤ 64 ∧ (64 : Word).toNat ≤ (z 64).length := by decide

/-- One frame on each side of each boundary of the priority list, in its order: `size` 0 and 1; a header that is
no opcode; `DATA` of 2 and 3 bytes, tag 3 and tag 0, 4 and 5 bytes, one data byte short and enough; a module reply
of 2 bytes, `dataLen` 21 and 20, 22 and 23 bytes, known and unknown module; a header without a receive path. -/
theorem witness_ReceiveStatusFollowsPriority :
    State.reset.cfg.Legal ∧
    [[], [5], [0, 0], [0, 0, 3], [0, 0, 0], [0, 0, 0, 1], [0, 0, 0, 1, 0], [0, 0, 0, 1, 0, 9],
      [7, 0], [7, 0, 21], [7, 0, 20], [7, 0, 20] ++ z 19, [7, 0, 20] ++ z 20, [7, 1, 20] ++ z 20,
      [7, 2, 20] ++ z 20, [1]].map (fun f => (rx f).map Prod.fst)
      = [0x0A, 0x12, 0x0A, 0x15, 0x0A, 0x0A, 0x0A, 0x11, 0x0A, 0x09, 0x0A, 0x0A, 0x11, 0x11, 0x14,
          0x13].map some := by decide

theorem witness_ResetClearsTheRegisters : (given .reset).inputs = .reset :: [] := rfl

/-- A frame of 4 bytes, and `size` 64 with `count` 59 and 60. -/
theorem witness_Data8EmitsTheBytes :
    State.reset.cfg.Legal ∧ Loaded (holding [0, 0, 0, 0]) [0, 0, 0, 0] ∧
    Loaded (holding (f59 0 59)) (f59 0 59) ∧ 5 + 59 ≤ (f59 0 59).length ∧
    Loaded (holding (f59 0 60)) (f59 0 60) ∧ (f59 0 60).length < 5 + 60 := by decide

/-- `count` 59 (29 elements) and 60 (30 elements) at `size` 64. -/
theorem witness_Data16EmitsBytePairs :
    State.reset.cfg.Legal ∧ Loaded (holding [0, 0, 1, 0]) [0, 0, 1, 0] ∧
    Loaded (holding (f59 1 59)) (f59 1 59) ∧ 5 + 2 * (59 / 2) ≤ (f59 1 59).length ∧
    Loaded (holding (f59 1 60)) (f59 1 60) ∧ (f59 1 60).length < 5 + 2 * (60 / 2) := by decide

/-- `count` 59 (14 elements) and 60 (15 elements) at `size` 64. -/
theorem witness_Data32EmitsWidenedWords :
    State.reset.cfg.Legal ∧ Loaded (holding [0, 0, 2, 0]) [0, 0, 2, 0] ∧
    Loaded (holding (f59 2 59)) (f59 2 59) ∧ 5 + 4 * (59 / 4) ≤ (f59 2 59).length ∧
    Loaded (holding (f59 2 60)) (f59 2 60) ∧ (f59 2 60).length < 5 + 4 * (60 / 4) := by decide

/-- 3 bytes and 2 bytes. -/
theorem witness_ReservedTagIsIgnored :
    State.reset.cfg.Legal ∧ Loaded (holding [0, 7, 0xFF]) [0, 7, 0xFF] ∧
    (0xFF : Byte).toNat % 4 = 3 ∧ Loaded (holding [0, 7]) [0, 7] := by decide

/-- 2 bytes; `dataLen` 21; `dataLen` 20 with 19 and with 20 data bytes; modules 0, `MODID_RGB_CAP` and 2. -/
theorem witness_ModuleReplyIsValidatedThenDispatched :
    State.reset.cfg.Legal ∧ Loaded (holding [7, 0]) [7, 0] ∧ Loaded (holding [7, 0, 21]) [7, 0, 21] ∧
    20 < (21 : Byte).toNat ∧ (20 : Byte).toNat ≤ 20 ∧
    Loaded (holding ([7, 0, 20] ++ z 19)) ([7, 0, 20] ++ z 19) ∧ 3 + 19 < 3 + (20 : Byte).toNat ∧
    Loaded (holding ([7, 0, 20] ++ z 20)) ([7, 0, 20] ++ z 20) ∧
    Loaded (holding ([7, 1, 20] ++ z 20)) ([7, 1, 20] ++ z 20) ∧
    Loaded (holding ([7, 2, 20] ++ z 20)) ([7, 2, 20] ++ z 20) ∧
    State.reset.cfg.modIdRgbCap = 1 := by decide

theorem witness_ChannelCommandsAreIgnoredOnReceive : State.reset.cfg.Legal := by decide

theorem witness_SetModuleIsIgnoredOnReceive : State.reset.cfg.Legal := by decide

theorem witness_UnknownHeaderIsIgnored :
    (5 : Byte) ∉ State.reset.cfg.opcodes ∧ (0xFF : Byte) ∉ State.reset.cfg.opcodes := by decide

/-- 0, 1 and the largest 32-bit integer. -/
theorem witness_WideningIsExact : 0 < 2 ^ 32 ∧ 0 < 1 ∧ 1 < 2 ^ 32 ∧ 4294967295 < 2 ^ 32 := by decide

theorem witness_WideningIsInjective :
    4294967295 < 2 ^ 32 ∧ u32ToF64 4294967295 = u32ToF64 4294967295 := by decide

/-- Two frames that differ in the channel and in the second element, and agree in element 0. -/
theorem witness_ElementsAreIndependentLanes :
    let f : List Byte := [0, 1, 1, 4, 0, 0x34, 0x12, 0x78, 0x56]
    let f' : List Byte := [0, 2, 1, 2, 0, 0x34, 0x12]
    2 ∈ [1, 2, 4] ∧ Loaded (holding f) f ∧ Loaded (holding f') f' ∧
    dataFields 2 (holding f) = .ok (1, [0x1234, 0x5678]) ∧
    dataFields 2 (holding f') = .ok (2, [0x1234]) ∧
    ∀ k < 2, f[5 + 2 * 0 + k]? = f'[5 + 2 * 0 + k]? := by decide

/-- A frame of 6 bytes that emits, followed by 58 bytes. -/
theorem witness_TailBytesAreIgnored :
    let f : List Byte := [0, 2, 0, 1, 0, 0x0A]
    Instr.rxData8.receives = true ∧ Loaded (holding f) f ∧ (f ++ z 58).length ≤ 64 ∧
    (afterStep (exec .rxData8 (holding f))).map (fun t => statusOk t.dstat) = some true := by decide

theorem witness_ChannelCommandsSendTheirFrame : State.reset.cfg.Legal := by decide

theorem witness_AutoSwitcherSendsItsFrame : State.reset.cfg.Legal := by decide

/-- `len` 20 and 21. -/
theorem witness_SetModuleSendsItsFrame :
    State.reset.cfg.Legal ∧ { Args.zero with len := 20 }.len.toNat ≤ 20 ∧
    20 < { Args.zero with len := 21 }.len.toNat := by decide

/-- `reqLen` 20 and 21. -/
theorem witness_ModuleRequestSendsItsFrame :
    State.reset.cfg.Legal ∧ { Args.zero with reqLen := 20 }.reqLen.toNat ≤ 20 ∧
    20 < { Args.zero with reqLen := 21 }.reqLen.toNat := by decide

/-- `OP_DATA`, and the reserved value 5. -/
theorem witness_RequestWithoutPathFails :
    State.reset.cfg.Legal ∧ (given (.enc 0 Args.zero)).inputs = [.enc 0 Args.zero] ∧
    (0 : Byte) = State.reset.cfg.opData ∧ (5 : Byte) ∉ State.reset.cfg.opcodes := by decide

/-- `size` 64 with 64 bytes, and `size` 65 with none. -/
theorem witness_ReceiveEmitsAtMostOneEvent :
    (given (.dec (z 64) 64)).inputs = [.dec (z 64) 64] ∧
    ((64 : Word).toNat ≤ 64 → (64 : Word).toNat ≤ (z 64).length) ∧
    ((65 : Word).toNat ≤ 64 → (65 : Word).toNat ≤ ([] : List Byte).length) := by decide

/-- A request that sends, one that fails, and a received frame. -/
theorem witness_OneFramePerSuccessfulRequest :
    (afterStep (step (given (.enc 1 Args.zero)))).map (fun t => statusOk t.estat) = some true ∧
    (afterStep (step (given (.enc 5 Args.zero)))).map (fun t => statusOk t.estat) = some false ∧
    (rx [5]).isSome = true := by decide

/-- One frame that fails, one that is ignored and one that emits. -/
theorem witness_ReceiveFrameRule :
    [Instr.rxData8, .rxDataRsv, .rxUnknown 5].map Instr.receives = [true, true, true] ∧
    (afterStep (exec .rxData8 (holding [0]))).map (fun t => statusOk t.dstat) = some false ∧
    (afterStep (exec (.rxUnknown 5) (holding [5]))).map (fun t => statusOk t.dstat) = some true ∧
    (afterStep (exec .rxData8 (holding (z 5)))).map State.dstat = some (dstatByte true .emitted) := by
  decide

/-- `reqLen` 20 sends, 21 fails. -/
theorem witness_TransmitFrameRule :
    (Instr.txGetModuleIdData 0 20).receives = false ∧
    (afterStep (exec (.txGetModuleIdData 0 20) State.reset)).map State.estat
      = some (estatByte true .sent) ∧
    (afterStep (exec (.txGetModuleIdData 0 21) State.reset)).map State.estat
      = some (estatByte false .eLenBounds) := by decide

theorem witness_OutputsOnlyGrow : ∃ t, step (given (.enc 1 Args.zero)) = .next t := ⟨_, rfl⟩

/-- An event on each of the five sinks. -/
theorem witness_EventsGoToTheirSink :
    let events (i : Instr) (f : List Byte) := (afterStep (exec i (holding f))).map State.events
    Loaded (holding (z 5)) (z 5) ∧ events .rxData8 (z 5) = some [.data8 0 []] ∧
    events .rxData16 [0, 0, 1, 0, 0] = some [.data16 0 []] ∧
    events .rxData32 [0, 0, 2, 0, 0] = some [.dataNum 0 []] ∧
    events .rxGetModuleIdData [7, 0, 0] = some [.coldPaletteModuleData []] ∧
    events .rxGetModuleIdData [7, 1, 0] = some [.rgbCapModuleData []] := by decide

/-- The last offset a read of 1, 2 or 4 bytes may start at, and the next one. -/
theorem witness_LittleEndianReads :
    Loaded (holding (z 64)) (z 64) ∧ 63 + 1 ≤ (z 64).length ∧ (z 64).length < 64 + 1 ∧
    62 + 2 ≤ (z 64).length ∧ (z 64).length < 63 + 2 ∧ 60 + 4 ≤ (z 64).length ∧
    (z 64).length < 61 + 4 := by decide

theorem witness_LittleEndianWrites :
    (4 ∈ [1, 2, 4] ∧ 4294967295 < 256 ^ 4 ∧ 60 + 4 ≤ 64) ∧ (1 ∈ [1, 2, 4] ∧ 255 < 256 ^ 1 ∧ 63 + 1 ≤ 64) := by
  decide

/-- `size` 64 and 65, two buffers that agree in their first 64 bytes. -/
theorem witness_ResultsDependOnTheTransactionAlone :
    (given (.dec (z 65) 64)).inputs = .dec (z 65) 64 :: [] ∧
    (z 65).take (min (64 : Word).toNat 64) = (z 70).take (min (64 : Word).toNat 64) ∧
    ((64 : Word).toNat ≤ 64 → (64 : Word).toNat ≤ (z 65).length) ∧
    ((65 : Word).toNat ≤ 64 → (65 : Word).toNat ≤ (z 65).length) ∧
    (given (.enc 1 Args.zero)).inputs = .enc 1 Args.zero :: [] := by decide

/-- A `STOP` frame, and a module request with its frame presented to the decoder. -/
theorem witness_SentFramesDecodeAsTheSpecSays :
    State.reset.cfg.Legal ∧ (Instr.txStop 3).receives = false ∧
    (Instr.txGetModuleIdData 0 20).receives = false ∧
    (afterStep (exec (.txStop 3) State.reset)).map State.frames = some [[1, 3] ++ z 62] ∧
    (afterStep (exec (.txGetModuleIdData 0 20) State.reset)).map State.frames = some [[7, 0, 20] ++ z 61] ∧
    (given (.dec ([7, 0, 20] ++ z 61) 64)).cfg = State.reset.cfg ∧
    rx ([7, 0, 20] ++ z 61) = some (dstatByte true .emitted, [.coldPaletteModuleData (z 20)]) := by decide

theorem witness_StepKeepsTheInvariant :
    (given (.dec (z 64) 64)).Inv ∧ (rx (z 64)).isSome = true := by decide

end Sys2Proof.Tests
end

section
/-! PROOF. R26: a transaction's result depends on the transaction and the parameters alone. A received instruction
reads nothing but the loaded frame and the parameters, so one outcome `r` serves every state that has them; a
transmit request sends one fixed frame, or fails, whatever the state. -/

namespace Sys2Proof.Machine

/-! ## What a packet can decode to -/

theorem dataInstr_receives (tag : BitVec 2) : (dataInstr tag).receives = true := by
  unfold dataInstr
  split_ifs <;> rfl

/-- A frame names a receive row, or lacks its header or its tag (40_decode_dispatch.md R82, R84). -/
theorem decodeFrame_cases (c : Config) (f : List Byte) :
    (∃ i, decodeFrame c f = .ok i ∧ i.receives = true) ∨
    decodeFrame c f = .error .emptyFrame ∨ decodeFrame c f = .error .flagsMissing := by
  unfold decodeFrame
  split
  · exact .inr (.inl rfl)
  · split_ifs
    · exact .inl ⟨_, rfl, rfl⟩
    · split
      · exact .inr (.inr rfl)
      · exact .inl ⟨_, rfl, dataInstr_receives _⟩
    all_goals exact .inl ⟨_, rfl, rfl⟩

/-- A request names a transmit row, or has no transmit path (44_encode_common.md R141, R142). -/
theorem decodeRequest_cases (c : Config) (op : Byte) (a : Args) :
    (∃ i, decodeRequest c op a = .ok i ∧ i.receives = false) ∨
    decodeRequest c op a = .error .noTxPath := by
  unfold decodeRequest
  split_ifs
  case neg => exact .inr rfl
  all_goals exact .inl ⟨_, rfl, rfl⟩

/-! ## The receive side -/

/-- The states agree in all a received instruction can read: the parameters, RXF and RXSIZE (10_state.md R19, R28). -/
structure SameReceived (s u : State) : Prop where
  cfg : s.cfg = u.cfg
  rxf : s.rxf = u.rxf
  rxsize : s.rxsize = u.rxsize

theorem SameReceived.load {s u : State} (h : s.cfg = u.cfg) (f : List Byte) :
    SameReceived (load f s) (load f u) :=
  ⟨h, rfl, rfl⟩

theorem SameReceived.rdB_eq {s u : State} (h : SameReceived s u) (off : Nat) :
    rdB s off = rdB u off := by
  rw [rdB, rdB, h.rxf, h.rxsize]

theorem SameReceived.rdBytes_eq {s u : State} (h : SameReceived s u) (off n : Nat) :
    rdBytes s off n = rdBytes u off n := by
  rw [rdBytes, rdBytes, h.rxf, h.rxsize]

theorem SameReceived.dataFields_eq {s u : State} (h : SameReceived s u) (es : Nat) :
    dataFields es s = dataFields es u := by
  simp only [dataFields, rdLE, h.rdB_eq, h.rdBytes_eq]

theorem SameReceived.moduleReply_eq {s u : State} (h : SameReceived s u) :
    moduleReply s = moduleReply u := by
  simp only [moduleReply, h.rdB_eq, h.rdBytes_eq, h.cfg]

/-- A received instruction ends by `finishDec` (40_decode_dispatch.md R85), with one outcome for all states that
agree with `u` in what it can read. -/
theorem exec_receives_determined (u : State) {i : Instr} (hi : i.receives = true) :
    ∃ r, ∀ s, SameReceived s u → exec i s = .next (finishDec r s) := by
  cases i with
  | rxData8 =>
    exact ⟨(dataFields 1 u).map fun d => .event (.data8 d.1 (d.2.map (BitVec.ofNat 8))),
      fun s h => by rw [← h.dataFields_eq]; rfl⟩
  | rxData16 =>
    exact ⟨(dataFields 2 u).map fun d => .event (.data16 d.1 (d.2.map (BitVec.ofNat 16))),
      fun s h => by rw [← h.dataFields_eq]; rfl⟩
  | rxData32 =>
    exact ⟨(dataFields 4 u).map fun d => .event (.dataNum d.1 (d.2.map u32ToF64)),
      fun s h => by rw [← h.dataFields_eq]; rfl⟩
  | rxDataRsv =>
    exact ⟨(rdB u 2).map fun _ => .ignored .ignTag, fun s h => by rw [← h.rdB_eq]; rfl⟩
  | rxGetModuleIdData => exact ⟨moduleReply u, fun s h => by rw [← h.moduleReply_eq]; rfl⟩
  | rxUnknown => exact ⟨.ok (.ignored .ignOpcode), fun _ _ => rfl⟩
  | rxStop | rxStartClockwise | rxStartCounterClockwise | rxStartAutoSwitcher | rxSetModuleIdData =>
    exact ⟨.ok (.ignored .ignNoRxPath), fun _ _ => rfl⟩
  | _ => cases hi

/-- A received frame ends by `finishDec`, with one outcome for all states that agree with `u` in what the
instruction it names can read. -/
theorem runPacket_frame_determined (u : State) (f : List Byte) :
    ∃ r, ∀ s, SameReceived s u → runPacket (.frame f) s = .next (finishDec r s) := by
  rcases decodeFrame_cases u.cfg f with ⟨i, hd, hi⟩ | hd | hd
  · obtain ⟨r, hr⟩ := exec_receives_determined u hi
    exact ⟨r, fun s h => by simpa [runPacket, decode, h.cfg, hd] using hr s h⟩
  all_goals
    exact ⟨.error .eShort, fun s h => by simp [runPacket, decode, h.cfg, hd, failDecode, finishDec]⟩

/-- A receive transaction ends by `finishDec` after its load step, with an outcome that the parameters, `size` and
the first `min(size, 64)` bytes of the buffer determine. -/
theorem runDec_determined (c : Config) (buf : List Byte) (size : Word)
    (hlen : size.toNat ≤ 64 → size.toNat ≤ buf.length) :
    ∃ r, ∀ (s : State) (buf' : List Byte), s.cfg = c →
      buf'.take (min size.toNat 64) = buf.take (min size.toNat 64) →
      ∃ u, u.events = s.events ∧ runDec buf' size s = .next (finishDec r u) := by
  by_cases hsize : size.toNat ≤ 64
  · rw [Nat.min_eq_left hsize]
    obtain ⟨r, hr⟩ := runPacket_frame_determined
      (load (buf.take size.toNat) { State.reset with cfg := c }) (buf.take size.toNat)
    refine ⟨r, fun s buf' hc hbuf => ⟨load (buf.take size.toNat) s, rfl, ?_⟩⟩
    have hlen' : size.toNat ≤ buf'.length := by
      have htake := congrArg List.length hbuf
      rw [List.length_take_of_le (hlen hsize)] at htake
      exact htake ▸ List.length_take_le' _ _
    rcases runDec_cases buf' size s with ⟨hbig, -⟩ | ⟨-, hshort, -⟩ | ⟨-, -, hrun⟩
    · exact absurd hsize (Nat.not_le.mpr hbig)
    · exact absurd hlen' (Nat.not_le.mpr hshort)
    · rw [hrun, hbuf]
      exact hr _ (.load hc _)
  · exact ⟨.error .eTooLarge, fun s buf' _ _ => ⟨unload s, rfl, if_pos (Nat.not_le.mp hsize)⟩⟩

/-- The status and the event of a `DEC` are those of its outcome (40_decode_dispatch.md R85, R86). -/
theorem finishDec_result (r : Except DecCode DecDone) :
    ∃ (status : Byte) (emitted : List Event), emitted.length ≤ 1 ∧
      ∀ s, (finishDec r s).dstat = status ∧ (finishDec r s).events = s.events ++ emitted := by
  rcases r with c | e | c
  · exact ⟨dstatByte false c, [], by simp, fun s => by simp [finishDec]⟩
  · exact ⟨dstatByte true .emitted, [e], by simp, fun s => by simp [finishDec]⟩
  · exact ⟨dstatByte true c, [], by simp, fun s => by simp [finishDec]⟩

/-! ## The transmit side -/

/-- Copying module data behind the three bytes before it in a zero-filled frame gives a whole frame
(47_encode_module_id.md R166). -/
theorem wrBytes_moduleData (opc moduleId len : Byte) (bytes : List Byte) (h : bytes.length ≤ 61) :
    ([opc, moduleId, len] ++ bytes ++ List.replicate (61 - bytes.length) 0).length = frameSize ∧
    ∀ s, wrBytes moduleDataOffset bytes (building ([opc, moduleId, len] ++ List.replicate 61 0) s)
      = building ([opc, moduleId, len] ++ bytes ++ List.replicate (61 - bytes.length) 0) s := by
  constructor
  · simp only [List.length_append, List.length_replicate, List.length_cons, List.length_nil,
      frameSize]
    omega
  · intro s
    rw [wrBytes_building _ _ _ _ (by
      simp only [List.length_append, List.length_replicate, List.length_cons, List.length_nil,
        moduleDataOffset]
      omega)]
    rw [moduleDataOffset, ← List.drop_drop, ← List.drop_replicate]
    rfl

/-- An over-long length fails, and otherwise the same frame is sent from every state: the two ways out of a
transmitted instruction (44_encode_common.md R143, R146). -/
theorem exec_transmits_determined (c : Config) {i : Instr} (hi : i.receives = false) :
    (∃ f : List Byte, f.length = frameSize ∧
      ∀ s, s.cfg = c → exec i s = .next (sendDone (building f s))) ∨
    ∀ s, exec i s = .next (failEnc .eLenBounds s) := by
  cases i with
  | txStop channel =>
    exact .inl ⟨[c.opStop, channel] ++ List.replicate 62 0, rfl, fun s hc => hc ▸ rfl⟩
  | txStartClockwise channel =>
    exact .inl ⟨[c.opStartClockwise, channel] ++ List.replicate 62 0, rfl, fun s hc => hc ▸ rfl⟩
  | txStartCounterClockwise channel =>
    exact .inl ⟨[c.opStartCounterClockwise, channel] ++ List.replicate 62 0, rfl,
      fun s hc => hc ▸ rfl⟩
  | txStartAutoSwitcher channel offTime onTime count =>
    exact .inl ⟨[c.opStartAutoSwitcher, channel] ++ leBytes 2 offTime.toNat ++ leBytes 2 onTime.toNat
      ++ leBytes 4 count.toNat ++ List.replicate 54 0, by simp, fun s hc => hc ▸ rfl⟩
  | txSetModuleIdData moduleId data len =>
    by_cases h : moduleDataMax < len.toNat
    · exact .inr fun s => if_pos h
    · have hfit : (data.toList.take len.toNat).length ≤ 61 :=
        (List.length_take_le _ _).trans ((Nat.not_lt.mp h).trans (by decide))
      obtain ⟨hlen, hcopy⟩ := wrBytes_moduleData c.opSetModuleIdData moduleId len _ hfit
      exact .inl ⟨_, hlen, fun s hc => (if_neg h).trans
        (congrArg (Host.Outcome.next ∘ sendDone) (hc ▸ hcopy s))⟩
  | txGetModuleIdData moduleId reqLen =>
    by_cases h : moduleDataMax < reqLen.toNat
    · exact .inr fun s => if_pos h
    · exact .inl ⟨[c.opGetModuleIdData, moduleId, reqLen] ++ List.replicate 61 0, rfl,
        fun s hc => (if_neg h).trans (hc ▸ rfl)⟩
  | _ => cases hi

/-- A transmit request sends one frame from every state, or fails under one code from every state. -/
theorem runEnc_determined (c : Config) (op : Byte) (a : Args) :
    (∃ f : List Byte, f.length = frameSize ∧
      ∀ s, s.cfg = c → runEnc op a s = .next (sendDone (building f s))) ∨
    ∃ code, ∀ s, s.cfg = c → runEnc op a s = .next (failEnc code s) := by
  rcases decodeRequest_cases c op a with ⟨i, hd, hi⟩ | hd
  · have hrun : ∀ s, s.cfg = c → runEnc op a s = exec i s := fun s hc => by
      simp [runEnc, runPacket, decode, hc, hd]
    rcases exec_transmits_determined c hi with ⟨f, hf, hsend⟩ | hfail
    · exact .inl ⟨f, hf, fun s hc => (hrun s hc).trans (hsend s hc)⟩
    · exact .inr ⟨.eLenBounds, fun s hc => (hrun s hc).trans (hfail s)⟩
  · exact .inr ⟨.eNoTxPath, fun s hc => by simp [runEnc, runPacket, decode, hc, hd, failDecode]⟩

/-! ## The step -/

/-- A step runs the transaction presented first (10_state.md R11, R12). -/
theorem step_of_inputs {s : State} {t : Transaction} {rest : List Transaction}
    (h : s.inputs = t :: rest) : step s = runTransaction t { s with inputs := rest } := by
  simp only [step, h]

/-- Settles O39: a receive transaction ends by one outcome, and a transmit request by one frame or one failure, in
all states with the same parameters. -/
theorem resultsDependOnTheTransactionAlone : Obligations.ResultsDependOnTheTransactionAlone := by
  constructor
  · intro c buf size hlen
    obtain ⟨r, hr⟩ := runDec_determined c buf size hlen
    obtain ⟨status, emitted, hone, hresult⟩ := finishDec_result r
    refine ⟨status, emitted, hone, fun s buf' rest hc hin hbuf => ?_⟩
    obtain ⟨u, hevents, hrun⟩ := hr { s with inputs := rest } buf' hc hbuf
    obtain ⟨hdstat, hemitted⟩ := hresult u
    exact ⟨_, (step_of_inputs hin).trans hrun, hdstat, by rw [hemitted, hevents]⟩
  · intro c op a
    rcases runEnc_determined c op a with ⟨f, hf, hsend⟩ | ⟨code, hfail⟩
    · refine ⟨estatByte true .sent, [f], Nat.le_refl 1, fun s rest hc hin =>
        ⟨_, (step_of_inputs hin).trans (hsend { s with inputs := rest } hc), rfl, ?_⟩⟩
      rw [sendDone_frames]
      exact congrArg (s.frames ++ [·]) (frameBytes_ofBytes f hf)
    · exact ⟨estatByte false code, [], Nat.zero_le 1, fun s rest hc hin =>
        ⟨_, (step_of_inputs hin).trans (hfail { s with inputs := rest } hc), rfl,
          (List.append_nil _).symm⟩⟩

end Sys2Proof.Machine
end

section
/-! PROOF. The read and write primitives of spec/20_memory.md. A read is one bounds check and then the
little-endian sum of the run; a write is one memory write or a run of them, and the memory laws say what is read
after it. -/

namespace Sys2Proof.Machine

/-! ## Reads -/

/-- `RdLE` fails as a whole when its run passes the received size (20_memory.md R33). -/
theorem rdLE_of_past_end {s : State} {f : List Byte} (h : Loaded s f) {off n : Nat}
    (hend : f.length < off + n) : rdLE s off n = .error .eShort := by
  rw [rdLE_loaded h, if_neg (Nat.not_le.mpr hend)]

/-- `RdLE` answers the value of its run when the run lies inside the received bytes (20_memory.md R33). -/
theorem rdLE_of_fits {s : State} {f : List Byte} (h : Loaded s f) {off n : Nat}
    (hfit : off + n ≤ f.length) : rdLE s off n = .ok (leValue ((f.drop off).take n)) := by
  rw [rdLE_loaded h, if_pos hfit]

/-- A one-byte `RdLE` is `RdB` (20_memory.md R32, R33). -/
theorem rdLE_one_eq_rdB {s : State} {f : List Byte} (h : Loaded s f) (off : Nat) :
    rdLE s off 1 = (rdB s off).map BitVec.toNat := by
  rw [rdB_loaded h]
  by_cases hfit : off + 1 ≤ f.length
  · rw [rdLE_of_fits h hfit, leValue_take_one _ _ hfit, List.getD_eq_getElem _ _ hfit,
      List.getElem?_eq_getElem hfit]
    rfl
  · rw [rdLE_of_past_end h (Nat.not_le.mp hfit),
      List.getElem?_eq_none (Nat.le_of_not_lt hfit)]
    rfl

/-- Settles O36: each width is the bounds check of `rdLE_loaded` and the value of a run of that many bytes. -/
theorem littleEndianReads : Obligations.LittleEndianReads := by
  intro s f off h
  refine ⟨fun n _ hend => rdLE_of_past_end h hend, fun hfit => ?one, fun hfit => ?two,
    fun hfit => ?four, rdLE_one_eq_rdB h off⟩
  case one => rw [rdLE_of_fits h hfit, leValue_take_one _ _ hfit]
  case two => rw [rdLE_of_fits h hfit, leValue_take_two _ _ hfit]
  case four => rw [rdLE_of_fits h hfit, leValue_take_four _ _ hfit]

/-! ## Writes -/

/-- Byte `k` of the little-endian form of `v` (20_memory.md R36). -/
theorem leBytes_getElem? (n v : Nat) {k : Nat} (h : k < n) :
    (leBytes n v)[k]? = some (BitVec.ofNat 8 (v / 256 ^ k % 256)) := by
  simp [leBytes, h]

/-- Settles O37: `WrLE` is the run write of the value's bytes. -/
theorem littleEndianWrites : Obligations.LittleEndianWrites := by
  intro s off n v _ _ _
  have hlen : (leBytes n v).length = n := leBytes_length n v
  refine ⟨fun k hk => ?inside, fun a ha => ?outside, rfl⟩
  case inside =>
    rw [wrLE_txf, Memory.read_writeRun_inside _ _ _ _ (hlen.symm ▸ hk), leBytes_getElem? n v hk]
  case outside =>
    exact Memory.read_writeRun_outside _ _ _ _ (hlen.symm ▸ ha)

/-- Settles O38: the memory laws of one write and of a run write, and that neither touches another field. -/
theorem byteAndRunWrites : Obligations.ByteAndRunWrites := fun s off b bytes =>
  ⟨Memory.read_write_same s.txf off b,
   fun _ ha => Memory.read_write_other s.txf b ha.symm,
   fun k hk => Memory.read_writeRun_inside bytes s.txf off k hk,
   fun a ha => Memory.read_writeRun_outside bytes s.txf off a ha,
   rfl, rfl, rfl⟩

end Sys2Proof.Machine
end

section
/-! PROOF. How a `DEC` ends (spec/40_decode_dispatch.md R81, R84 to R86). An opcode's own rule has few outcomes:
one event, one of four ignore codes, `E_SHORT` or `E_LEN_BOUNDS`. `E_TOO_LARGE` is the front end's alone, and no
rule claims `EMITTED` without an event; the status tells the rest. -/

namespace Sys2Proof.Machine

/-! ## Status values -/

theorem decNumber_injective : Function.Injective decNumber := by
  intro a b
  cases a <;> cases b <;> decide

@[simp] theorem statusOk_dstatByte (ok : Bool) (c : DecCode) : statusOk (dstatByte ok c) = ok := by
  cases ok <;> cases c <;> rfl

@[simp] theorem statusCode_dstatByte (ok : Bool) (c : DecCode) :
    statusCode (dstatByte ok c) = decNumber c := by
  cases ok <;> cases c <;> rfl

/-- `OK` and `CODE` together name a `DSTAT` value (10_state.md R21). -/
@[simp] theorem dstatByte_inj {ok ok' : Bool} {c c' : DecCode} :
    dstatByte ok c = dstatByte ok' c' ↔ ok = ok' ∧ c = c' := by
  constructor
  · intro h
    have hok := congrArg statusOk h
    have hcode := congrArg statusCode h
    simp only [statusOk_dstatByte, statusCode_dstatByte] at hok hcode
    exact ⟨hok, decNumber_injective hcode⟩
  · rintro ⟨rfl, rfl⟩
    rfl

/-! ## The outcomes of an opcode's rule, in any state -/

/-- The ways the rule of a received opcode can end (41_decode_data.md, 42_decode_module_id.md,
43_decode_ignored.md). -/
inductive RuleOutcome : Except DecCode DecDone → Prop where
  | event (e : Event) : RuleOutcome (.ok (.event e))
  | ignored {c : DecCode} (hc : c ∈ [.ignOpcode, .ignNoRxPath, .ignModule, .ignTag]) :
      RuleOutcome (.ok (.ignored c))
  | failed {c : DecCode} (hc : c ∈ [.eShort, .eLenBounds]) : RuleOutcome (.error c)

theorem RuleOutcome.ne_tooLarge {r : Except DecCode DecDone} (h : RuleOutcome r) :
    r ≠ .error .eTooLarge := by
  rintro rfl
  cases h with
  | failed hc => exact absurd hc (by decide)

theorem RuleOutcome.ne_ignored_emitted {r : Except DecCode DecDone} (h : RuleOutcome r) :
    r ≠ .ok (.ignored .emitted) := by
  rintro rfl
  cases h with
  | ignored hc => exact absurd hc (by decide)

theorem RuleOutcome.short : RuleOutcome (.error .eShort) := .failed (by decide)

theorem rdB_cases (s : State) (off : Nat) :
    (∃ b, rdB s off = .ok b) ∨ rdB s off = .error .eShort := by
  unfold rdB
  split
  · exact .inr rfl
  · split_ifs
    · exact .inr rfl
    · split
      · exact .inl ⟨_, rfl⟩
      · exact .inr rfl

theorem rdBytes_cases (s : State) (off n : Nat) :
    (∃ bs, rdBytes s off n = .ok bs) ∨ rdBytes s off n = .error .eShort := by
  unfold rdBytes
  split
  · exact .inr rfl
  · split_ifs
    · exact .inr rfl
    · split
      · exact .inl ⟨_, rfl⟩
      · exact .inr rfl

theorem rdLE_cases (s : State) (off n : Nat) :
    (∃ v, rdLE s off n = .ok v) ∨ rdLE s off n = .error .eShort := by
  rcases rdBytes_cases s off n with ⟨bs, h⟩ | h
  · exact .inl ⟨leValue bs, by rw [rdLE, h]⟩
  · exact .inr (by rw [rdLE, h])

/-- Only a read can fail in `DecodeData` (41_decode_data.md R100). -/
theorem dataFields_cases (es : Nat) (s : State) :
    (∃ d, dataFields es s = .ok d) ∨ dataFields es s = .error .eShort := by
  simp only [dataFields, bind, Except.bind, pure, Except.pure]
  rcases rdB_cases s 2 with ⟨flags, h2⟩ | h2
  · rcases rdB_cases s 1 with ⟨ch, h1⟩ | h1
    · rcases rdLE_cases s 3 2 with ⟨count, h3⟩ | h3
      · rcases rdBytes_cases s dataOffset (es * (count / es)) with ⟨raw, h5⟩ | h5 <;>
          simp [h2, h1, h3, h5]
      · simp [h2, h1, h3]
    · simp [h2, h1]
  · simp [h2]

theorem dataFields_outcome (es : Nat) (s : State) (mk : Byte × List Nat → Event) :
    RuleOutcome ((dataFields es s).map fun d => .event (mk d)) := by
  rcases dataFields_cases es s with ⟨d, h⟩ | h <;> rw [h]
  · exact .event (mk d)
  · exact .short

theorem moduleReply_outcome (s : State) : RuleOutcome (moduleReply s) := by
  simp only [moduleReply, bind, Except.bind, pure, Except.pure]
  rcases rdB_cases s 2 with ⟨len, h2⟩ | h2 <;> simp only [h2]
  case inr => exact .short
  split_ifs
  · exact .failed (by decide)
  · rcases rdBytes_cases s moduleDataOffset len.toNat with ⟨bytes, h3⟩ | h3 <;> simp only [h3]
    case inr => exact .short
    rcases rdB_cases s 1 with ⟨m, h1⟩ | h1 <;> simp only [h1]
    case inr => exact .short
    split_ifs
    · exact .event _
    · exact .event _
    · exact .ignored (by decide)

/-- Every received instruction ends by `finishDec` on its own state, with an outcome of its rule. -/
theorem exec_receives_outcome {i : Instr} (hi : i.receives = true) (s : State) :
    ∃ r, RuleOutcome r ∧ exec i s = .next (finishDec r s) := by
  cases i with
  | rxData8 => exact ⟨_, dataFields_outcome 1 s _, rfl⟩
  | rxData16 => exact ⟨_, dataFields_outcome 2 s _, rfl⟩
  | rxData32 => exact ⟨_, dataFields_outcome 4 s _, rfl⟩
  | rxDataRsv =>
    refine ⟨(rdB s 2).map fun _ => .ignored .ignTag, ?_, rfl⟩
    rcases rdB_cases s 2 with ⟨b, h⟩ | h <;> rw [h]
    · exact .ignored (by decide)
    · exact .short
  | rxGetModuleIdData => exact ⟨_, moduleReply_outcome s, rfl⟩
  | rxUnknown | rxStop | rxStartClockwise | rxStartCounterClockwise | rxStartAutoSwitcher
  | rxSetModuleIdData => exact ⟨_, .ignored (by decide), rfl⟩
  | _ => cases hi

/-- A frame that names no instruction is short; one that names an instruction ends as its rule does. -/
theorem runPacket_frame_outcome (f : List Byte) (s : State) :
    ∃ r, RuleOutcome r ∧ runPacket (.frame f) s = .next (finishDec r s) := by
  rcases decodeFrame_cases s.cfg f with ⟨i, hd, hi⟩ | hd | hd
  · obtain ⟨r, hr, hexec⟩ := exec_receives_outcome hi s
    exact ⟨r, hr, by simpa [runPacket, decode, hd] using hexec⟩
  all_goals exact ⟨_, .short, by simp [runPacket, decode, hd, failDecode, finishDec]⟩

/-! ## The end of a receive transaction -/

/-- A receive transaction that is not refused writes RXF and RXSIZE and ends by `finishDec`: with `E_TOO_LARGE`
for a `size` above 64, and otherwise with an outcome of an opcode's rule (40_decode_dispatch.md R81, R84). -/
theorem runDec_outcome (buf : List Byte) (size : Word) (s : State)
    (hlen : size.toNat ≤ 64 → size.toNat ≤ buf.length) :
    ∃ r rxf rxsize,
      runDec buf size s = .next (finishDec r { s with rxf := rxf, rxsize := rxsize }) ∧
      (64 < size.toNat ∧ r = .error .eTooLarge ∨ size.toNat ≤ 64 ∧ RuleOutcome r) := by
  rcases runDec_cases buf size s with ⟨hbig, hrun⟩ | ⟨hfit, hshort, -⟩ | ⟨hfit, -, hrun⟩
  · exact ⟨.error .eTooLarge, [], none, hrun, .inl ⟨hbig, rfl⟩⟩
  · exact absurd (hlen hfit) (Nat.not_le.mpr hshort)
  · obtain ⟨r, hr, hpacket⟩ := runPacket_frame_outcome (buf.take size.toNat) (load _ s)
    exact ⟨r, _, _, hrun.trans hpacket, .inr ⟨hfit, hr⟩⟩

/-- `DSTAT` says `E_TOO_LARGE` for no other outcome. -/
theorem finishDec_dstat_eq_tooLarge {r : Except DecCode DecDone} {s : State}
    (h : (finishDec r s).dstat = dstatByte false .eTooLarge) : r = .error .eTooLarge := by
  rcases finishDec_cases r s with ⟨e, -, hend⟩ | ⟨c, -, hend⟩ | ⟨c, rfl, hend⟩ <;> rw [hend] at h
  · exact absurd (dstatByte_inj.mp h).1 (by decide)
  · exact absurd (dstatByte_inj.mp h).1 (by decide)
  · rw [(dstatByte_inj.mp h).2]

/-- The event log and `EMITTED` agree, unless a rule ignores the frame under `EMITTED` (40_decode_dispatch.md
R86). -/
theorem finishDec_emits {r : Except DecCode DecDone} (hr : r ≠ .ok (.ignored .emitted)) (s : State) :
    ((finishDec r s).dstat = dstatByte true .emitted ∧
      ∃ e, (finishDec r s).events = s.events ++ [e]) ∨
    ((finishDec r s).dstat ≠ dstatByte true .emitted ∧ (finishDec r s).events = s.events) := by
  rcases finishDec_cases r s with ⟨e, -, h⟩ | ⟨c, rfl, h⟩ | ⟨c, -, h⟩ <;> rw [h]
  · exact .inl ⟨rfl, e, rfl⟩
  · have hc : c ≠ .emitted := fun hc => hr (by rw [hc])
    exact .inr ⟨by simpa using hc, rfl⟩
  · exact .inr ⟨by simp, rfl⟩

/-- Settles O9: the size check answers before the buffer is looked at, and no opcode's rule fails with
`E_TOO_LARGE`. -/
theorem oversizedBufferIsRejected : Obligations.OversizedBufferIsRejected := by
  intro s buf size rest hin
  rw [step_of_inputs hin]
  refine ⟨fun hbig => if_pos hbig, fun hfit hlen => ?_⟩
  obtain ⟨r, rxf, rxsize, hrun, ⟨hbig, -⟩ | ⟨-, hr⟩⟩ :=
    runDec_outcome buf size { s with inputs := rest } fun _ => hlen
  · exact absurd hfit (Nat.not_le.mpr hbig)
  · exact ⟨_, hrun, fun h => hr.ne_tooLarge (finishDec_dstat_eq_tooLarge h)⟩

/-- Settles O30: the transaction ends by `finishDec`, and no outcome ignores a frame under `EMITTED`. -/
theorem receiveEmitsAtMostOneEvent : Obligations.ReceiveEmitsAtMostOneEvent := by
  intro s buf size rest hin hlen
  obtain ⟨r, rxf, rxsize, hrun, hend⟩ := runDec_outcome buf size { s with inputs := rest } hlen
  have hr : r ≠ .ok (.ignored .emitted) := by
    rcases hend with ⟨-, rfl⟩ | ⟨-, hr⟩
    · nofun
    · exact hr.ne_ignored_emitted
  refine ⟨_, (step_of_inputs hin).trans hrun, finishDec_emits hr _, ?_⟩
  rcases r with c | e | c <;> rfl

end Sys2Proof.Machine
end

section
/-! PROOF. `DATA` as received (spec/41_decode_data.md). The three widths run one rule at an element size of 1, 2 or
4 bytes: `E_SHORT`, or one event with the elements of the run behind the five fixed bytes. It is proved once, for
any element size; a width adds how its elements read in the frame. -/

namespace Sys2Proof.Machine

/-! ## The tag -/

/-- The width tag is `flags mod 4` (30_encoding.md R57). -/
theorem tagOf_eq_ofNat (flags : Byte) : tagOf flags = BitVec.ofNat 2 (flags.toNat % 4) := by
  apply BitVec.eq_of_toNat_eq
  simp [tagOf, BitVec.extractLsb'_toNat]

/-- A frame with header `OP_DATA` that reaches its `flags` byte names the row of its tag (41_decode_data.md
R100). -/
theorem decode_data_frame {c : Config} (hc : c.Legal) (ch flags : Byte) (rest : List Byte) :
    decode c (.frame (c.opData :: ch :: flags :: rest))
      = .ok (dataInstr (BitVec.ofNat 2 (flags.toNat % 4))) := by
  obtain ⟨⟨-, -, -, -, -, hget⟩, -⟩ := hc.opcodes_ne
  simp [decode, decodeFrame, hget, tagOf_eq_ofNat]

/-- `decode_data_frame` for a tag given by its value, in the form the four statements ask for. -/
theorem decode_data_frame_of_tag {c : Config} (hc : c.Legal) {f : List Byte} {tag : Nat} :
    ∀ ch flags rest, f = c.opData :: ch :: flags :: rest → flags.toNat % 4 = tag →
      decode c (.frame f) = .ok (dataInstr (BitVec.ofNat 2 tag)) := by
  rintro ch flags rest rfl rfl
  exact decode_data_frame hc ch flags rest

/-! ## The shared rule of the three widths -/

/-- The rule of `DATA` at element size `es`, with the event `mk` makes of the channel and the elements
(41_decode_data.md R100, R102 to R104). -/
def emitData (es : Nat) (mk : Byte × List Nat → Event) (s : State) :
    Host.Outcome State Fault Refusal :=
  .next (finishDec ((dataFields es s).map fun d => .event (mk d)) s)

theorem exec_rxData8 (s : State) :
    exec .rxData8 s = emitData 1 (fun d => .data8 d.1 (d.2.map (BitVec.ofNat 8))) s := rfl

theorem exec_rxData16 (s : State) :
    exec .rxData16 s = emitData 2 (fun d => .data16 d.1 (d.2.map (BitVec.ofNat 16))) s := rfl

theorem exec_rxData32 (s : State) :
    exec .rxData32 s = emitData 4 (fun d => .dataNum d.1 (d.2.map u32ToF64)) s := rfl

theorem exec_rxDataRsv (s : State) :
    exec .rxDataRsv s = .next (finishDec ((rdB s 2).map fun _ => .ignored .ignTag) s) := rfl

theorem emitData_of_error {es : Nat} {s : State} {c : DecCode} (mk : Byte × List Nat → Event)
    (h : dataFields es s = .error c) :
    emitData es mk s = .next { s with dstat := dstatByte false c } := by
  rw [emitData, h]
  rfl

theorem emitData_of_ok {es : Nat} {s : State} {d : Byte × List Nat} (mk : Byte × List Nat → Event)
    (h : dataFields es s = .ok d) :
    emitData es mk s
      = .next { s with dstat := dstatByte true .emitted, events := s.events ++ [mk d] } := by
  rw [emitData, h]
  rfl

/-- A `DATA` frame that ends before its `count` field is short (41_decode_data.md R100). -/
theorem emitData_of_length_lt_five {s : State} {f : List Byte} (h : Loaded s f) (es : Nat)
    (mk : Byte × List Nat → Event) (hlen : f.length < 5) :
    emitData es mk s = .next { s with dstat := dstatByte false .eShort } := by
  refine emitData_of_error mk ?_
  rw [dataFields_loaded h]
  split
  · simp only [List.length_cons] at hlen
    omega
  · rfl

section
variable {s : State} {hd ch flags c0 c1 : Byte} {data : List Byte}

/-- A `DATA` frame that ends before its last whole element is short (41_decode_data.md R108). -/
theorem emitData_of_past_end (h : Loaded s (hd :: ch :: flags :: c0 :: c1 :: data)) (es : Nat)
    (mk : Byte × List Nat → Event)
    (hend : (hd :: ch :: flags :: c0 :: c1 :: data).length
      < 5 + es * ((c0.toNat + 256 * c1.toNat) / es)) :
    emitData es mk s = .next { s with dstat := dstatByte false .eShort } := by
  refine emitData_of_error mk ?_
  simp only [List.length_cons] at hend
  rw [dataFields_loaded h]
  exact if_neg (by omega)

/-- A `DATA` frame that holds all its whole elements emits them with its channel byte (41_decode_data.md R100,
R101, R107). -/
theorem emitData_of_fits (h : Loaded s (hd :: ch :: flags :: c0 :: c1 :: data)) (es : Nat)
    (mk : Byte × List Nat → Event)
    (hfit : 5 + es * ((c0.toNat + 256 * c1.toNat) / es)
      ≤ (hd :: ch :: flags :: c0 :: c1 :: data).length) :
    emitData es mk s
      = .next { s with
          dstat := dstatByte true .emitted
          events := s.events ++ [mk (ch, elements es ((c0.toNat + 256 * c1.toNat) / es) data)] } := by
  refine emitData_of_ok mk ?_
  simp only [List.length_cons] at hfit
  rw [dataFields_loaded h]
  exact if_pos (by omega)

end

/-! ## The elements, read in the frame -/

/-- Every element of a run that fits behind the five fixed bytes lies inside the frame. -/
theorem element_fits {f : List Byte} {es n j : Nat} (hfit : 5 + es * n ≤ f.length)
    (hj : j ∈ List.range n) : 5 + es * j + es ≤ f.length := by
  have hle : es * (j + 1) ≤ es * n := Nat.mul_le_mul_left es (List.mem_range.mp hj)
  rw [Nat.mul_succ] at hle
  omega

/-- Two-byte elements (41_decode_data.md R103). -/
theorem elements_two {f : List Byte} {n : Nat} (hfit : 5 + 2 * n ≤ f.length) :
    elements 2 n (f.drop 5) = (List.range n).map fun j =>
      (f.getD (5 + 2 * j) 0).toNat + 256 * (f.getD (6 + 2 * j) 0).toNat := by
  refine List.map_congr_left fun j hj => ?_
  rw [List.drop_drop, leValue_take_two _ _ (element_fits hfit hj), Nat.add_right_comm 5]

/-- Four-byte elements (41_decode_data.md R104). -/
theorem elements_four {f : List Byte} {n : Nat} (hfit : 5 + 4 * n ≤ f.length) :
    elements 4 n (f.drop 5) = (List.range n).map fun j =>
      (f.getD (5 + 4 * j) 0).toNat + 256 * (f.getD (6 + 4 * j) 0).toNat
        + 65536 * (f.getD (7 + 4 * j) 0).toNat + 16777216 * (f.getD (8 + 4 * j) 0).toNat := by
  refine List.map_congr_left fun j hj => ?_
  rw [List.drop_drop, leValue_take_four _ _ (element_fits hfit hj), Nat.add_right_comm 5 _ 1,
    Nat.add_right_comm 5 _ 2, Nat.add_right_comm 5 _ 3]

/-! ## The obligations -/

/-- Settles O13: the shared rule at element size 1, where an element is its byte. -/
theorem data8EmitsTheBytes : Obligations.Data8EmitsTheBytes := by
  intro s f hc h
  simp only [exec_rxData8]
  refine ⟨decode_data_frame_of_tag hc, emitData_of_length_lt_five h 1 _, ?_⟩
  rintro hd ch flags c0 c1 data rfl
  have hcount : 1 * ((c0.toNat + 256 * c1.toNat) / 1) = c0.toNat + 256 * c1.toNat := by
    rw [Nat.one_mul, Nat.div_one]
  refine ⟨fun hend => emitData_of_past_end h 1 _ (hcount.symm ▸ hend), fun hfit => ⟨?_, rfl⟩⟩
  have hdata : c0.toNat + 256 * c1.toNat ≤ data.length := by
    simp only [List.length_cons] at hfit
    omega
  rw [emitData_of_fits h 1 _ (hcount.symm ▸ hfit), Nat.div_one, elements_one _ _ hdata]

/-- Settles O14: the shared rule at element size 2. -/
theorem data16EmitsBytePairs : Obligations.Data16EmitsBytePairs := by
  intro s f hc h
  simp only [exec_rxData16]
  refine ⟨decode_data_frame_of_tag hc, emitData_of_length_lt_five h 2 _, ?_⟩
  rintro hd ch flags c0 c1 data rfl
  refine ⟨emitData_of_past_end h 2 _, fun hfit => ⟨?_, fun _ => rfl⟩⟩
  have helems : elements 2 _ data = _ := elements_two hfit
  rw [emitData_of_fits h 2 _ hfit, helems, List.map_map]
  rfl

/-- Settles O15: the shared rule at element size 4, each element widened. -/
theorem data32EmitsWidenedWords : Obligations.Data32EmitsWidenedWords := by
  intro s f hc h
  simp only [exec_rxData32]
  refine ⟨decode_data_frame_of_tag hc, emitData_of_length_lt_five h 4 _, ?_⟩
  rintro hd ch flags c0 c1 data rfl
  refine ⟨emitData_of_past_end h 4 _, fun hfit => ⟨?_, fun _ => rfl⟩⟩
  have helems : elements 4 _ data = _ := elements_four hfit
  rw [emitData_of_fits h 4 _ hfit, helems, List.map_map]
  rfl

/-- Settles O16: the only read is that of the `flags` byte. -/
theorem reservedTagIsIgnored : Obligations.ReservedTagIsIgnored := by
  intro s f hc h
  rw [exec_rxDataRsv, rdB_loaded h]
  refine ⟨decode_data_frame_of_tag hc, fun hflags => ?_, fun hshort => ?_⟩
  · rw [List.getElem?_eq_getElem hflags]
    rfl
  · rw [List.getElem?_eq_none (Nat.le_of_lt_succ hshort)]
    rfl

end Sys2Proof.Machine
end

section
/-! PROOF. `GET_MODULE_ID_DATA` as received (spec/42_decode_module_id.md). The outcome of the rule on a loaded frame
is one lemma for each check, in the order of R122; how each kind of outcome ends the transaction is another, and the
obligation puts the two together. -/

namespace Sys2Proof.Machine

/-! ## The header -/

/-- The header switch tests `OP_GET_MODULE_ID_DATA` first (40_decode_dispatch.md R84). -/
theorem decode_moduleReply_frame {c : Config} {f : List Byte}
    (h : f[0]? = some c.opGetModuleIdData) : decode c (.frame f) = .ok .rxGetModuleIdData := by
  simp [decode, decodeFrame, h]

/-! ## The outcome of each check, in the order of R122 -/

theorem moduleReply_of_length_lt_three {s : State} {f : List Byte} (h : Loaded s f)
    (hlen : f.length < 3) : moduleReply s = .error .eShort := by
  rw [moduleReply_loaded h]
  split
  · simp only [List.length_cons] at hlen
    omega
  · rfl

/-- What the dispatch makes of the copied bytes (42_decode_module_id.md R121). -/
def dispatchModule (c : Config) (m : Byte) (bytes : List Byte) : DecDone :=
  if m = 0 then .event (.coldPaletteModuleData bytes)
  else if m = c.modIdRgbCap then .event (.rgbCapModuleData bytes)
  else .ignored .ignModule

section
variable {s : State} {hd m len : Byte} {rest : List Byte}

theorem moduleReply_of_overlong (h : Loaded s (hd :: m :: len :: rest)) (hover : 20 < len.toNat) :
    moduleReply s = .error .eLenBounds := by
  rw [moduleReply_loaded h]
  exact if_pos hover

theorem moduleReply_of_past_end (h : Loaded s (hd :: m :: len :: rest)) (hlegal : len.toNat ≤ 20)
    (hend : (hd :: m :: len :: rest).length < 3 + len.toNat) : moduleReply s = .error .eShort := by
  simp only [List.length_cons] at hend
  rw [moduleReply_loaded h]
  exact (if_neg (Nat.not_lt.mpr hlegal)).trans (if_pos (by omega))

/-- Past both checks exactly the first `dataLen` bytes of `moduleData` are dispatched. -/
theorem moduleReply_of_fits (h : Loaded s (hd :: m :: len :: rest)) (hlegal : len.toNat ≤ 20)
    (hfit : 3 + len.toNat ≤ (hd :: m :: len :: rest).length) :
    moduleReply s = .ok (dispatchModule s.cfg m (rest.take len.toNat)) := by
  simp only [List.length_cons] at hfit
  rw [moduleReply_loaded h]
  exact (if_neg (Nat.not_lt.mpr hlegal)).trans (if_neg (by omega))

end

theorem dispatchModule_coldPalette (c : Config) (bytes : List Byte) :
    dispatchModule c 0 bytes = .event (.coldPaletteModuleData bytes) := rfl

/-- The two module ids differ, so the first test does not take the RGB-capture module (00_scope.md R7). -/
theorem dispatchModule_rgbCap {c : Config} (hc : c.Legal) (bytes : List Byte) :
    dispatchModule c c.modIdRgbCap bytes = .event (.rgbCapModuleData bytes) := by
  obtain ⟨-, -, hne⟩ := hc
  exact (if_neg hne).trans (if_pos rfl)

theorem dispatchModule_other {c : Config} {m : Byte} (hcold : m ≠ 0) (hrgb : m ≠ c.modIdRgbCap)
    (bytes : List Byte) : dispatchModule c m bytes = .ignored .ignModule :=
  (if_neg hcold).trans (if_neg hrgb)

/-! ## How the transaction ends -/

theorem exec_rxGetModuleIdData (s : State) :
    exec .rxGetModuleIdData s = .next (finishDec (moduleReply s) s) := rfl

theorem exec_rxGetModuleIdData_of_error {s : State} {c : DecCode} (h : moduleReply s = .error c) :
    exec .rxGetModuleIdData s = .next { s with dstat := dstatByte false c } := by
  rw [exec_rxGetModuleIdData, h]
  rfl

theorem exec_rxGetModuleIdData_of_event {s : State} {e : Event}
    (h : moduleReply s = .ok (.event e)) :
    exec .rxGetModuleIdData s
      = .next { s with dstat := dstatByte true .emitted, events := s.events ++ [e] } := by
  rw [exec_rxGetModuleIdData, h]
  rfl

theorem exec_rxGetModuleIdData_of_ignored {s : State} {c : DecCode}
    (h : moduleReply s = .ok (.ignored c)) :
    exec .rxGetModuleIdData s = .next { s with dstat := dstatByte true c } := by
  rw [exec_rxGetModuleIdData, h]
  rfl

/-! ## The obligation -/

/-- Settles O17: the length bound, the presence of the data and the module are tested in this order, and each
outcome ends the transaction in its own way. -/
theorem moduleReplyIsValidatedThenDispatched :
    Obligations.ModuleReplyIsValidatedThenDispatched := by
  intro s f hc h
  refine ⟨decode_moduleReply_frame,
    fun hlen => exec_rxGetModuleIdData_of_error (moduleReply_of_length_lt_three h hlen), ?_⟩
  rintro hd m len rest rfl
  refine ⟨?overlong, ?short, ?coldPalette, ?rgbCap, ?other⟩
  case overlong =>
    exact fun hover => exec_rxGetModuleIdData_of_error (moduleReply_of_overlong h hover)
  case short =>
    exact fun hlegal hend => exec_rxGetModuleIdData_of_error (moduleReply_of_past_end h hlegal hend)
  case coldPalette =>
    rintro hlegal hfit rfl
    have hreply := moduleReply_of_fits h hlegal hfit
    rw [dispatchModule_coldPalette] at hreply
    exact ⟨exec_rxGetModuleIdData_of_event hreply, rfl⟩
  case rgbCap =>
    rintro hlegal hfit rfl
    have hreply := moduleReply_of_fits h hlegal hfit
    rw [dispatchModule_rgbCap hc] at hreply
    exact ⟨exec_rxGetModuleIdData_of_event hreply, rfl⟩
  case other =>
    intro hlegal hfit hcold hrgb
    have hreply := moduleReply_of_fits h hlegal hfit
    rw [dispatchModule_other hcold hrgb] at hreply
    exact exec_rxGetModuleIdData_of_ignored hreply

end Sys2Proof.Machine
end

section
/-! PROOF. Opcodes without a receive path, and unknown headers (spec/43_decode_ignored.md). The header byte alone
names the row, so each opcode has one lemma for any payload; and the rows' rules read nothing, so one lemma for each
of the two ignore codes says how the transaction ends. -/

namespace Sys2Proof.Machine

/-! ## The header switch -/

/-- A header that is no opcode passes every test of the switch (40_decode_dispatch.md R84). -/
theorem decode_unknown_frame {c : Config} {h : Byte} (hh : h ∉ c.opcodes) (payload : List Byte) :
    decode c (.frame (h :: payload)) = .ok (.rxUnknown h) := by
  simp only [Config.opcodes, List.mem_cons, List.not_mem_nil, or_false, not_or] at hh
  obtain ⟨hdata, hstop, hcw, hccw, hauto, hset, hget⟩ := hh
  simp [decode, decodeFrame, hdata, hstop, hcw, hccw, hauto, hset, hget]

section
variable {c : Config} (hc : c.Legal) (payload : List Byte)
include hc

theorem decode_stop_frame : decode c (.frame (c.opStop :: payload)) = .ok .rxStop := by
  obtain ⟨⟨hdata, -⟩, ⟨-, -, -, -, hget⟩, -⟩ := hc.opcodes_ne
  simp [decode, decodeFrame, hget, hdata.symm]

theorem decode_startClockwise_frame :
    decode c (.frame (c.opStartClockwise :: payload)) = .ok .rxStartClockwise := by
  obtain ⟨⟨-, hdata, -⟩, ⟨hstop, -⟩, ⟨-, -, -, hget⟩, -⟩ := hc.opcodes_ne
  simp [decode, decodeFrame, hget, hdata.symm, hstop.symm]

theorem decode_startCounterClockwise_frame :
    decode c (.frame (c.opStartCounterClockwise :: payload)) = .ok .rxStartCounterClockwise := by
  obtain ⟨⟨-, -, hdata, -⟩, ⟨-, hstop, -⟩, ⟨hcw, -⟩, ⟨-, -, hget⟩, -⟩ := hc.opcodes_ne
  simp [decode, decodeFrame, hget, hdata.symm, hstop.symm, hcw.symm]

theorem decode_startAutoSwitcher_frame :
    decode c (.frame (c.opStartAutoSwitcher :: payload)) = .ok .rxStartAutoSwitcher := by
  obtain ⟨⟨-, -, -, hdata, -⟩, ⟨-, -, hstop, -⟩, ⟨-, hcw, -⟩, ⟨hccw, -⟩, ⟨-, hget⟩, -⟩ :=
    hc.opcodes_ne
  simp [decode, decodeFrame, hget, hdata.symm, hstop.symm, hcw.symm, hccw.symm]

theorem decode_setModuleIdData_frame :
    decode c (.frame (c.opSetModuleIdData :: payload)) = .ok .rxSetModuleIdData := by
  obtain ⟨⟨-, -, -, -, hdata, -⟩, ⟨-, -, -, hstop, -⟩, ⟨-, -, hcw, -⟩, ⟨-, hccw, -⟩, ⟨hauto, -⟩,
    hget⟩ := hc.opcodes_ne
  simp [decode, decodeFrame, hget, hdata.symm, hstop.symm, hcw.symm, hccw.symm, hauto.symm]

end

/-! ## How the transaction ends -/

/-- Ignoring a frame writes `DSTAT` and nothing else (40_decode_dispatch.md R85). -/
theorem ignoreFrame_eq (code : DecCode) (s : State) :
    ignoreFrame code s = { s with dstat := dstatByte true code } := rfl

/-- The five transmit-only opcodes are ignored under one code (43_decode_ignored.md R131, R132). -/
theorem exec_of_noRxPath {i : Instr}
    (hi : i ∈ [.rxStop, .rxStartClockwise, .rxStartCounterClockwise, .rxStartAutoSwitcher,
      .rxSetModuleIdData]) (s : State) :
    exec i s = .next { s with dstat := dstatByte true .ignNoRxPath } := by
  have hexec : exec i s = .next (ignoreFrame .ignNoRxPath s) := by
    cases i with
    | rxStop | rxStartClockwise | rxStartCounterClockwise | rxStartAutoSwitcher
    | rxSetModuleIdData => rfl
    | _ => simp at hi
  rw [hexec, ignoreFrame_eq]

theorem exec_rxUnknown (h : Byte) (s : State) :
    exec (.rxUnknown h) s = .next { s with dstat := dstatByte true .ignOpcode } := by
  have hexec : exec (.rxUnknown h) s = .next (ignoreFrame .ignOpcode s) := rfl
  rw [hexec, ignoreFrame_eq]

/-! ## The obligations -/

/-- Settles O18: each of the four headers names its row, and the rows share one ending. -/
theorem channelCommandsAreIgnoredOnReceive : Obligations.ChannelCommandsAreIgnoredOnReceive :=
  fun s payload hc =>
    ⟨⟨decode_stop_frame hc payload, exec_of_noRxPath (by decide) s⟩,
     ⟨decode_startClockwise_frame hc payload, exec_of_noRxPath (by decide) s⟩,
     ⟨decode_startCounterClockwise_frame hc payload, exec_of_noRxPath (by decide) s⟩,
     ⟨decode_startAutoSwitcher_frame hc payload, exec_of_noRxPath (by decide) s⟩⟩

/-- Settles O19: the row is named by its header and ends as the channel commands do, without reading `dataLen`. -/
theorem setModuleIsIgnoredOnReceive : Obligations.SetModuleIsIgnoredOnReceive :=
  fun s payload hc => ⟨decode_setModuleIdData_frame hc payload, exec_of_noRxPath (by decide) s⟩

/-- Settles O20: the header falls through the switch to `UNKNOWN`, whose rule reads nothing. -/
theorem unknownHeaderIsIgnored : Obligations.UnknownHeaderIsIgnored :=
  fun s h payload hh => ⟨decode_unknown_frame hh payload, exec_rxUnknown h s⟩

end Sys2Proof.Machine
end

section
/-! PROOF. The frames each kind of transaction hands to the transmit port (spec/44_encode_common.md R145): a receive
transaction ends by `finishDec`, which leaves the port alone, and a transmit request ends by sending the one frame it
built or by failing. -/

namespace Sys2Proof.Machine

@[simp] theorem statusOk_estatByte (ok : Bool) (c : EncCode) : statusOk (estatByte ok c) = ok := by
  cases ok <;> cases c <;> rfl

/-- The end of a `DEC` hands nothing to the transmit port (40_decode_dispatch.md R85). -/
@[simp] theorem finishDec_frames (r : Except DecCode DecDone) (s : State) :
    (finishDec r s).frames = s.frames := by
  rcases finishDec_cases r s with ⟨e, -, h⟩ | ⟨c, -, h⟩ | ⟨c, -, h⟩ <;> rw [h] <;> rfl

theorem runDec_frames {buf : List Byte} {size : Word} {s t : State}
    (h : runDec buf size s = .next t) : t.frames = s.frames := by
  rcases runDec_cases buf size s with ⟨-, hrun⟩ | ⟨-, -, hrun⟩ | ⟨-, -, hrun⟩ <;> rw [hrun] at h
  · cases h
    rfl
  · cases h
  · obtain ⟨r, -, hpacket⟩ := runPacket_frame_outcome (buf.take size.toNat) (load _ s)
    cases hpacket.symm.trans h
    exact finishDec_frames r _

/-- A transmit request hands over one whole frame under `OK`, or nothing without it. -/
theorem runEnc_frames {op : Byte} {a : Args} {s t : State} (h : runEnc op a s = .next t) :
    (statusOk t.estat = true ∧ ∃ f, f.length = 64 ∧ t.frames = s.frames ++ [f]) ∨
    (statusOk t.estat = false ∧ t.frames = s.frames) := by
  rcases runEnc_determined s.cfg op a with ⟨f, hf, hsend⟩ | ⟨code, hfail⟩
  · cases (hsend s rfl).symm.trans h
    refine .inl ⟨statusOk_estatByte true .sent, f, hf, ?_⟩
    rw [sendDone_building f s hf]
  · cases (hfail s rfl).symm.trans h
    exact .inr ⟨statusOk_estatByte false code, rfl⟩

/-- Settles O31: the step runs the transaction presented first, and each kind says which frames it hands over. -/
theorem oneFramePerSuccessfulRequest : Obligations.OneFramePerSuccessfulRequest := by
  intro s t hstep
  refine ⟨fun op a rest hin => ?request, fun hother => ?other⟩
  case request =>
    rw [step_of_inputs hin] at hstep
    exact runEnc_frames (s := { s with inputs := rest }) hstep
  case other =>
    rcases hin : s.inputs with _ | ⟨tr, rest⟩
    · simp only [step, hin] at hstep
      cases hstep
      rfl
    · rw [step_of_inputs hin] at hstep
      cases tr with
      | dec buf size => exact runDec_frames (s := { s with inputs := rest }) hstep
      | enc op a => exact absurd hin (hother op a rest)
      | reset =>
        cases hstep
        rfl

end Sys2Proof.Machine
end

section
/-! PROOF. The three channel commands as transmitted (spec/45_encode_channel.md). Each `op` names its row because the
opcodes tested before it differ from it, and the three rows run one shared body, `encChannel`. -/

namespace Sys2Proof.Machine

/-! ## The dispatch on `op` -/

/-- The dispatch tests `OP_STOP` first (44_encode_common.md R141). -/
theorem decode_stop_request (c : Config) (a : Args) :
    decode c (.request c.opStop a) = .ok (.txStop a.channel) := by
  simp [decode, decodeRequest]

section
variable {c : Config} (hc : c.Legal) (a : Args)
include hc

theorem decode_startClockwise_request :
    decode c (.request c.opStartClockwise a) = .ok (.txStartClockwise a.channel) := by
  obtain ⟨-, ⟨hstop, -⟩, -⟩ := hc.opcodes_ne
  simp [decode, decodeRequest, hstop.symm]

theorem decode_startCounterClockwise_request :
    decode c (.request c.opStartCounterClockwise a)
      = .ok (.txStartCounterClockwise a.channel) := by
  obtain ⟨-, ⟨-, hstop, -⟩, ⟨hcw, -⟩, -⟩ := hc.opcodes_ne
  simp [decode, decodeRequest, hstop.symm, hcw.symm]

end

/-! ## The rows' rule: `EncChannel` with the opcode of the row (R152 to R154) -/

/-- `(OK = 1, CODE = SENT)` as a number (10_state.md R22), the form `sendDone_building` and `encChannel_eq` use. -/
theorem estatByte_sent : estatByte true .sent = 0x11 := rfl

theorem exec_txStop (channel : Byte) (s : State) :
    exec (.txStop channel) s = .next (encChannel s.cfg.opStop channel s) := rfl

theorem exec_txStartClockwise (channel : Byte) (s : State) :
    exec (.txStartClockwise channel) s = .next (encChannel s.cfg.opStartClockwise channel s) := rfl

theorem exec_txStartCounterClockwise (channel : Byte) (s : State) :
    exec (.txStartCounterClockwise channel) s
      = .next (encChannel s.cfg.opStartCounterClockwise channel s) := rfl

/-! ## The obligation -/

/-- Settles O25: each `op` names its row, and `encChannel_eq` says what the shared body does for any opcode. -/
theorem channelCommandsSendTheirFrame : Obligations.ChannelCommandsSendTheirFrame := by
  intro s a hc
  simp only [estatByte_sent]
  refine ⟨⟨decode_stop_request s.cfg a, ?stop⟩,
    ⟨decode_startClockwise_request hc a, ?clockwise⟩,
    ⟨decode_startCounterClockwise_request hc a, ?counterClockwise⟩⟩
  case stop => rw [exec_txStop, encChannel_eq]
  case clockwise => rw [exec_txStartClockwise, encChannel_eq]
  case counterClockwise => rw [exec_txStartCounterClockwise, encChannel_eq]

end Sys2Proof.Machine
end

section
/-! PROOF. `START_AUTO_SWITCHER` as transmitted (spec/46_encode_auto_switcher.md). The row zeroes a frame and fills its
first ten bytes by writes that abut: each write replaces bytes of the frame being built, so the operands stand packed
and the other 54 bytes stay zero. -/

namespace Sys2Proof.Machine

theorem decode_startAutoSwitcher_request {c : Config} (hc : c.Legal) (a : Args) :
    decode c (.request c.opStartAutoSwitcher a)
      = .ok (.txStartAutoSwitcher a.channel a.offTime a.onTime a.count) := by
  obtain ⟨-, ⟨-, -, hstop, -⟩, ⟨-, hcw, -⟩, ⟨hccw, -⟩, -⟩ := hc.opcodes_ne
  simp [decode, decodeRequest, hstop.symm, hcw.symm, hccw.symm]

/-- The frame of R160, each operand in the little-endian form of `WrLE` (20_memory.md R36). -/
def autoSwitcherFrame (opc channel : Byte) (offTime onTime : Half) (count : Word) : List Byte :=
  [opc, channel] ++ leBytes 2 offTime.toNat ++ leBytes 2 onTime.toNat ++ leBytes 4 count.toNat
    ++ List.replicate 54 0

theorem autoSwitcherFrame_length (opc channel : Byte) (offTime onTime : Half) (count : Word) :
    (autoSwitcherFrame opc channel offTime onTime count).length = frameSize := by
  simp [autoSwitcherFrame]

/-- The five writes of `EncAutoSwitcher` turn the zeroed frame into the frame of R160. -/
theorem exec_txStartAutoSwitcher (channel : Byte) (offTime onTime : Half) (count : Word)
    (s : State) :
    exec (.txStartAutoSwitcher channel offTime onTime count) s
      = .next (sendDone (building
          (autoSwitcherFrame s.cfg.opStartAutoSwitcher channel offTime onTime count) s)) := by
  have hexec : exec (.txStartAutoSwitcher channel offTime onTime count) s
      = execTxStartAutoSwitcher channel offTime onTime count s := rfl
  rw [hexec, execTxStartAutoSwitcher, zeroFrame_eq, wrB_building _ _ _ _ (by simp),
    wrB_building _ _ _ _ (by simp), wrLE_building _ _ _ _ _ (by simp),
    wrLE_building _ _ _ _ _ (by simp), wrLE_building _ _ _ _ _ (by simp)]
  rfl

/-- Settles O26: the `op` names the row, and the row sends the frame its five writes build. -/
theorem autoSwitcherSendsItsFrame : Obligations.AutoSwitcherSendsItsFrame := by
  intro s a
  refine ⟨fun hc => decode_startAutoSwitcher_request hc a, ?sends⟩
  case sends =>
    rw [exec_txStartAutoSwitcher, sendDone_building _ _ (autoSwitcherFrame_length ..)]
    rfl

end Sys2Proof.Machine
end

section
/-! PROOF. `SET_MODULE_ID_DATA` as transmitted (spec/47_encode_module_id.md R165 to R167). The row tests `len` before it
touches the frame; within the bound it copies exactly `len` bytes, so `wrBytes_moduleData` gives the frame sent. -/

namespace Sys2Proof.Machine

theorem decode_setModuleIdData_request {c : Config} (hc : c.Legal) (a : Args) :
    decode c (.request c.opSetModuleIdData a)
      = .ok (.txSetModuleIdData a.moduleId a.data a.len) := by
  obtain ⟨-, ⟨-, -, -, hstop, -⟩, ⟨-, -, hcw, -⟩, ⟨-, hccw, -⟩, ⟨hauto, -⟩, -⟩ := hc.opcodes_ne
  simp [decode, decodeRequest, hstop.symm, hcw.symm, hccw.symm, hauto.symm]

/-- The frame of R166: the first `len` bytes of `data` behind three header bytes, then zeros. -/
def setModuleFrame (opc moduleId : Byte) (data : Vector Byte moduleDataMax) (len : Byte) :
    List Byte :=
  [opc, moduleId, len] ++ data.toList.take len.toNat ++ List.replicate (61 - len.toNat) 0

section
variable {len : Byte} (moduleId : Byte) (data : Vector Byte moduleDataMax)

/-- Within the bound of R165 there are as many data bytes as `len` asks for. -/
theorem length_take_moduleData (h : len.toNat ≤ moduleDataMax) :
    (data.toList.take len.toNat).length = len.toNat := by
  rw [List.length_take, Vector.length_toList, Nat.min_eq_left h]

theorem setModuleFrame_length (opc : Byte) (h : len.toNat ≤ moduleDataMax) :
    (setModuleFrame opc moduleId data len).length = frameSize := by
  have hbound : len.toNat ≤ 20 := h
  simp only [setModuleFrame, List.length_append, List.length_replicate, List.length_cons,
    List.length_nil, length_take_moduleData data h, frameSize]
  omega

/-- The three header bytes and the copy turn the zeroed frame into the frame of R166. -/
theorem exec_txSetModuleIdData_of_fits (h : len.toNat ≤ moduleDataMax) (s : State) :
    exec (.txSetModuleIdData moduleId data len) s
      = .next (sendDone (building
          (setModuleFrame s.cfg.opSetModuleIdData moduleId data len) s)) := by
  have hcount := length_take_moduleData data h
  have hfit : (data.toList.take len.toNat).length ≤ 61 := hcount.trans_le (h.trans (by decide))
  obtain ⟨-, hcopy⟩ := wrBytes_moduleData s.cfg.opSetModuleIdData moduleId len _ hfit
  rw [hcount] at hcopy
  exact (if_neg (Nat.not_lt.mpr h)).trans (congrArg (Host.Outcome.next ∘ sendDone) (hcopy s))

/-- An over-long `len` fails before the frame is touched (R167). -/
theorem exec_txSetModuleIdData_of_overlong (h : moduleDataMax < len.toNat) (s : State) :
    exec (.txSetModuleIdData moduleId data len) s = .next (failEnc .eLenBounds s) :=
  if_pos h

end

/-- Settles O27: the `op` names the row, the row sends the frame of R166 within the bound on `len` and fails beyond
it. -/
theorem setModuleSendsItsFrame : Obligations.SetModuleSendsItsFrame := by
  intro s a
  refine ⟨fun hc => decode_setModuleIdData_request hc a, fun hfits => ?sends,
    fun hover => ⟨[], exec_txSetModuleIdData_of_overlong a.moduleId a.data hover s⟩⟩
  case sends =>
    rw [exec_txSetModuleIdData_of_fits a.moduleId a.data hfits,
      sendDone_building _ _ (setModuleFrame_length a.moduleId a.data _ hfits)]
    rfl

end Sys2Proof.Machine
end

section
/-! PROOF. The step with no transaction presented (spec/60_exceptions.md R206): the other half of
`step_of_inputs`. -/

namespace Sys2Proof.Machine

/-- Settles O7: the step's branch for an empty input list answers the state it was given. -/
theorem idleStepDoesNothing : Obligations.IdleStepDoesNothing := by
  intro s hidle
  simp only [step, hidle]

end Sys2Proof.Machine
end

section
/-! PROOF. The `GET_MODULE_ID_DATA` request as transmitted (spec/47_encode_module_id.md R170, R171). The row tests
`reqLen` and then writes three bytes into a zeroed frame; it copies no data. -/

namespace Sys2Proof.Machine

theorem decode_getModuleIdData_request {c : Config} (hc : c.Legal) (a : Args) :
    decode c (.request c.opGetModuleIdData a) = .ok (.txGetModuleIdData a.moduleId a.reqLen) := by
  obtain ⟨-, ⟨-, -, -, -, hstop⟩, ⟨-, -, -, hcw⟩, ⟨-, -, hccw⟩, ⟨-, hauto⟩, hset⟩ := hc.opcodes_ne
  simp [decode, decodeRequest, hstop.symm, hcw.symm, hccw.symm, hauto.symm, hset.symm]

/-- The frame of R170: the two operands behind the header, then zeros. -/
def moduleRequestFrame (opc moduleId reqLen : Byte) : List Byte :=
  [opc, moduleId, reqLen] ++ List.replicate 61 0

theorem moduleRequestFrame_length (opc moduleId reqLen : Byte) :
    (moduleRequestFrame opc moduleId reqLen).length = frameSize := rfl

section
variable (moduleId : Byte) {reqLen : Byte}

/-- The three writes turn the zeroed frame into the frame of R170. -/
theorem exec_txGetModuleIdData_of_fits (h : reqLen.toNat ≤ moduleDataMax) (s : State) :
    exec (.txGetModuleIdData moduleId reqLen) s
      = .next (sendDone (building
          (moduleRequestFrame s.cfg.opGetModuleIdData moduleId reqLen) s)) :=
  if_neg (Nat.not_lt.mpr h)

/-- An over-long `reqLen` fails before the frame is touched (R171). -/
theorem exec_txGetModuleIdData_of_overlong (h : moduleDataMax < reqLen.toNat) (s : State) :
    exec (.txGetModuleIdData moduleId reqLen) s = .next (failEnc .eLenBounds s) :=
  if_pos h

end

/-- Settles O28: the `op` names the row, the row sends the frame of R170 within the bound on `reqLen` and fails
beyond it. -/
theorem moduleRequestSendsItsFrame : Obligations.ModuleRequestSendsItsFrame := by
  intro s a
  refine ⟨fun hc => decode_getModuleIdData_request hc a, fun hfits => ?sends,
    fun hover => exec_txGetModuleIdData_of_overlong a.moduleId hover s⟩
  case sends =>
    rw [exec_txGetModuleIdData_of_fits a.moduleId hfits,
      sendDone_building _ _ (moduleRequestFrame_length ..)]
    rfl

end Sys2Proof.Machine
end

section
/-! PROOF. Decoder and encoder (spec/30_encoding.md). What an opcode names is one lemma per row, for frames and for
requests, so decoding an encoding cites the row's lemma; the rows of the machine-readable table are masks over the
three key bytes. -/

namespace Sys2Proof.Machine

/-! ## Decode after encode -/

/-- Settles O1: every row's encoding has the header, or the `op`, by which the row is named. -/
theorem decodeOfEncodeIsIdentity : Obligations.DecodeOfEncodeIsIdentity := by
  intro c i hc hwf
  cases i with
  | rxData8 | rxData16 | rxData32 | rxDataRsv => exact decode_data_frame hc 0 _ _
  | rxGetModuleIdData => exact decode_moduleReply_frame (keyFrame_header _ _)
  | rxStop => exact decode_stop_frame hc _
  | rxStartClockwise => exact decode_startClockwise_frame hc _
  | rxStartCounterClockwise => exact decode_startCounterClockwise_frame hc _
  | rxStartAutoSwitcher => exact decode_startAutoSwitcher_frame hc _
  | rxSetModuleIdData => exact decode_setModuleIdData_frame hc _
  | rxUnknown header => exact decode_unknown_frame (of_decide_eq_true hwf) _
  | txStop channel => exact decode_stop_request c _
  | txStartClockwise channel => exact decode_startClockwise_request hc _
  | txStartCounterClockwise channel => exact decode_startCounterClockwise_request hc _
  | txStartAutoSwitcher channel offTime onTime count =>
    exact decode_startAutoSwitcher_request hc _
  | txSetModuleIdData moduleId data len => exact decode_setModuleIdData_request hc _
  | txGetModuleIdData moduleId reqLen => exact decode_getModuleIdData_request hc _

/-! ## What the decoder names is well-formed -/

theorem wellFormed_of_transmits (c : Config) {i : Instr} (hi : i.receives = false) :
    WellFormed c i = true := by
  cases i with
  | rxUnknown header => cases hi
  | _ => rfl

theorem dataInstr_wellFormed (c : Config) (tag : BitVec 2) :
    WellFormed c (dataInstr tag) = true := by
  unfold dataInstr
  split_ifs <;> rfl

/-- The header switch reaches `UNKNOWN` past the tests of all seven opcodes (40_decode_dispatch.md R84). -/
theorem decodeFrame_wellFormed {c : Config} {f : List Byte} {i : Instr}
    (h : decodeFrame c f = .ok i) : WellFormed c i = true := by
  unfold decodeFrame at h
  split at h
  · cases h
  · split_ifs at h with hget hdata hstop hcw hccw hauto hset
    · cases h
      rfl
    · split at h <;> cases h
      exact dataInstr_wellFormed c _
    case neg =>
      cases h
      simp [WellFormed, Config.opcodes, hget, hdata, hstop, hcw, hccw, hauto, hset]
    all_goals
      cases h
      rfl

/-- Settles O3: a request names a transmit row, and a frame names `UNKNOWN` for a header outside the opcodes only. -/
theorem decodedInstructionIsWellFormed : Obligations.DecodedInstructionIsWellFormed := by
  intro c p i hd
  cases p with
  | frame f => exact decodeFrame_wellFormed hd
  | request op a =>
    rcases decodeRequest_cases c op a with ⟨j, hj, hrow⟩ | herr
    · cases hj.symm.trans hd
      exact wellFormed_of_transmits c hrow
    · cases herr.symm.trans hd

/-! ## The machine-readable table -/

/-- The key is the three bytes side by side, the header lowest (30_encoding.md R64). -/
theorem frameKey_eq_append (b0 b1 b2 : Byte) :
    frameKey b0 b1 b2 = (b2 ++ b1 ++ b0 : BitVec (8 + 8 + 8)) := by
  apply BitVec.eq_of_toNat_eq
  have h0 := b0.isLt
  have h1 := b1.isLt
  have h2 := b2.isLt
  rw [BitVec.toNat_append, ← Nat.shiftLeft_add_eq_or_of_lt h0, BitVec.toNat_append,
    ← Nat.shiftLeft_add_eq_or_of_lt h1]
  simp only [frameKey, BitVec.toNat_ofNat, Nat.shiftLeft_eq]
  omega

/-- A key masked by a key is masked byte by byte. -/
theorem frameKey_and (b0 b1 b2 m0 m1 m2 : Byte) :
    frameKey b0 b1 b2 &&& frameKey m0 m1 m2 = frameKey (b0 &&& m0) (b1 &&& m1) (b2 &&& m2) := by
  simp only [frameKey_eq_append]
  rw [BitVec.and_append, BitVec.and_append]

/-- A key determines its three bytes. -/
theorem frameKey_inj {b0 b1 b2 d0 d1 d2 : Byte} :
    frameKey b0 b1 b2 = frameKey d0 d1 d2 ↔ b0 = d0 ∧ b1 = d1 ∧ b2 = d2 := by
  simp only [frameKey]
  bv_omega

/-- The two low bits of `flags` are the tag (30_encoding.md R57). -/
theorem flags_and_three (flags : Byte) : flags &&& 3#8 = (tagOf flags).setWidth 8 := by
  apply BitVec.eq_of_toNat_eq
  have hmod := Nat.and_two_pow_sub_one_eq_mod flags.toNat 2
  have hlt := Nat.mod_lt flags.toNat (show 0 < 2 ^ 2 by decide)
  rw [BitVec.toNat_setWidth, tagOf, BitVec.extractLsb'_toNat, Nat.shiftRight_zero,
    Nat.mod_eq_of_lt (hlt.trans (by decide))]
  exact hmod

/-- A row of `DATA`: the mask keeps the header and the tag. -/
def dataRow (i : Instr) (tag : BitVec 2) : TableRow :=
  ⟨i, frameKey 255#8 0#8 3#8, frameKey 0#8 0#8 (tag.setWidth 8)⟩

/-- A row of another opcode: the mask keeps the header. -/
def headerRow (i : Instr) (header : Byte) : TableRow :=
  ⟨i, frameKey 255#8 0#8 0#8, frameKey header 0#8 0#8⟩

theorem receiveRows_eq : receiveRows =
    [dataRow .rxData8 0, dataRow .rxData16 1, dataRow .rxData32 2, dataRow .rxDataRsv 3,
      headerRow .rxGetModuleIdData 7, headerRow .rxStop 1, headerRow .rxStartClockwise 2,
      headerRow .rxStartCounterClockwise 3, headerRow .rxStartAutoSwitcher 4,
      headerRow .rxSetModuleIdData 6] := rfl

theorem byte_and_ones (b : Byte) : b &&& 255#8 = b := BitVec.and_allOnes

theorem dataRow_hits (i : Instr) (tag : BitVec 2) (b0 b1 b2 : Byte) :
    (dataRow i tag).hits (frameKey b0 b1 b2) = decide (b0 = 0 ∧ tagOf b2 = tag) := by
  have htag : (tagOf b2).setWidth 8 = tag.setWidth 8 ↔ tagOf b2 = tag := by bv_omega
  simp only [TableRow.hits, dataRow, frameKey_and, frameKey_inj, byte_and_ones, BitVec.and_zero,
    flags_and_three, htag, true_and]
  rfl

theorem headerRow_hits (i : Instr) (header b0 b1 b2 : Byte) :
    (headerRow i header).hits (frameKey b0 b1 b2) = decide (b0 = header) := by
  simp only [TableRow.hits, headerRow, frameKey_and, frameKey_inj, byte_and_ones, BitVec.and_zero,
    and_true]

theorem tag_cases (tag : BitVec 2) : tag = 0 ∨ tag = 1 ∨ tag = 2 ∨ tag = 3 := by
  revert tag
  decide

/-- Settles O2: a `DATA` row matches on header and tag, every other row on its header alone. -/
theorem decodeAgreesWithOpcodeTable : Obligations.DecodeAgreesWithOpcodeTable := by
  intro b0 b1 b2 rest
  simp only [tableInstr, receiveRows_eq, List.find?_cons, List.find?_nil, dataRow_hits,
    headerRow_hits]
  by_cases hop : b0 ∈ Config.default.opcodes
  · simp only [Config.opcodes, Config.default, List.mem_cons, List.not_mem_nil, or_false] at hop
    rcases hop with rfl | rfl | rfl | rfl | rfl | rfl | rfl
    case inl =>
      have hdata := decode_data_frame (c := Config.default) (by decide) b1 b2 rest
      rw [← tagOf_eq_ofNat] at hdata
      refine hdata.trans (congrArg Except.ok ?_)
      rcases tag_cases (tagOf b2) with h | h | h | h <;> rw [h] <;> rfl
    all_goals rfl
  · rw [decode_unknown_frame hop]
    simp only [Config.opcodes, Config.default, List.mem_cons, List.not_mem_nil, or_false,
      not_or] at hop
    obtain ⟨h0, h1, h2, h3, h4, h6, h7⟩ := hop
    simp only [h0, h1, h2, h3, h4, h6, h7, false_and, decide_false]

/-- Settles O4: each packet is short enough to run the decoder on. -/
theorem specFramesDecode : Obligations.SpecFramesDecode := ⟨rfl, rfl, rfl, rfl, rfl, rfl, rfl⟩

end Sys2Proof.Machine
end

section
/-! PROOF. What a received instruction does, as one relation between the row and the outcome of its rule
(spec/41_decode_data.md, 42_decode_module_id.md, 43_decode_ignored.md). A rule that succeeds on a loaded frame says
what the frame holds; the frame rule, the sink of an event and the independence of lanes and of the tail follow. -/

namespace Sys2Proof.Machine

/-! ## The rule of each row -/

/-- The three `DATA` rows with their element size and their event (41_decode_data.md R102 to R104). -/
inductive DataRow : Instr → Nat → (Byte × List Nat → Event) → Prop where
  | data8 : DataRow .rxData8 1 fun d => .data8 d.1 (d.2.map (BitVec.ofNat 8))
  | data16 : DataRow .rxData16 2 fun d => .data16 d.1 (d.2.map (BitVec.ofNat 16))
  | data32 : DataRow .rxData32 4 fun d => .dataNum d.1 (d.2.map u32ToF64)

/-- In the state `s` the rule of a receive row has the outcome. -/
inductive Rule (s : State) : Instr → Except DecCode DecDone → Prop where
  | data {i : Instr} {es : Nat} {mk : Byte × List Nat → Event} (row : DataRow i es mk) :
      Rule s i ((dataFields es s).map fun d => .event (mk d))
  | dataRsv : Rule s .rxDataRsv ((rdB s 2).map fun _ => .ignored .ignTag)
  | moduleReply : Rule s .rxGetModuleIdData (moduleReply s)
  | noRxPath {i : Instr} (hi : i ∈ [.rxStop, .rxStartClockwise, .rxStartCounterClockwise,
      .rxStartAutoSwitcher, .rxSetModuleIdData]) : Rule s i (.ok (.ignored .ignNoRxPath))
  | unknown (header : Byte) : Rule s (.rxUnknown header) (.ok (.ignored .ignOpcode))

/-- A receive row ends by `finishDec` with the outcome of its rule (40_decode_dispatch.md R85). -/
theorem Rule.exec_eq {s : State} {i : Instr} {r : Except DecCode DecDone} (h : Rule s i r) :
    exec i s = .next (finishDec r s) := by
  cases h with
  | data row => cases row <;> rfl
  | dataRsv => rfl
  | moduleReply => rfl
  | noRxPath hi => exact exec_of_noRxPath hi s
  | unknown header => exact exec_rxUnknown header s

theorem exists_rule {i : Instr} (hi : i.receives = true) (s : State) : ∃ r, Rule s i r := by
  cases i with
  | rxData8 => exact ⟨_, .data .data8⟩
  | rxData16 => exact ⟨_, .data .data16⟩
  | rxData32 => exact ⟨_, .data .data32⟩
  | rxDataRsv => exact ⟨_, .dataRsv⟩
  | rxGetModuleIdData => exact ⟨_, .moduleReply⟩
  | rxUnknown header => exact ⟨_, .unknown header⟩
  | rxStop | rxStartClockwise | rxStartCounterClockwise | rxStartAutoSwitcher
  | rxSetModuleIdData => exact ⟨_, .noRxPath (by decide)⟩
  | _ => cases hi

/-- A `DATA` rule that succeeds emits the event of the fields it read. -/
theorem event_of_map_eq_ok {r : Except DecCode (Byte × List Nat)} {mk : Byte × List Nat → Event}
    {d : DecDone} (h : (r.map fun x => DecDone.event (mk x)) = .ok d) :
    ∃ x, r = .ok x ∧ d = .event (mk x) := by
  rcases r with c | x <;> cases h
  exact ⟨x, rfl, rfl⟩

/-! ## What the frame holds when a rule succeeds -/

section
variable {s s' : State} {f tail : List Byte}

/-- The fields of a `DATA` frame (41_decode_data.md R100, R101, R108). -/
theorem dataFields_eq_ok (h : Loaded s f) {es : Nat} {d : Byte × List Nat}
    (hd : dataFields es s = .ok d) :
    ∃ header ch flags c0 c1 data n, f = header :: ch :: flags :: c0 :: c1 :: data ∧
      n = (c0.toNat + 256 * c1.toNat) / es ∧ es * n ≤ data.length ∧
      d = (ch, elements es n data) := by
  rw [dataFields_loaded h] at hd
  split at hd
  next header ch flags c0 c1 data _ =>
    simp only at hd
    split_ifs at hd with hfit
    cases hd
    exact ⟨header, ch, flags, c0, c1, data, _, rfl, rfl, hfit, rfl⟩
  next => cases hd

/-- The fields of a module reply (42_decode_module_id.md R121). -/
theorem moduleReply_eq_ok (h : Loaded s f) {d : DecDone} (hd : moduleReply s = .ok d) :
    ∃ header m len rest, f = header :: m :: len :: rest ∧ len.toNat ≤ 20 ∧
      len.toNat ≤ rest.length ∧ d = dispatchModule s.cfg m (rest.take len.toNat) := by
  rw [moduleReply_loaded h] at hd
  split at hd
  next header m len rest _ =>
    by_cases hover : 20 < len.toNat
    · rw [if_pos hover] at hd
      cases hd
    by_cases hshort : rest.length < len.toNat
    · rw [if_neg hover, if_pos hshort] at hd
      cases hd
    rw [if_neg hover, if_neg hshort] at hd
    cases hd
    exact ⟨header, m, len, rest, rfl, Nat.not_lt.mp hover, Nat.not_lt.mp hshort, rfl⟩
  next => cases hd

/-- Only the cold palette and the RGB-capture module have a sink (42_decode_module_id.md R121). -/
theorem dispatchModule_eq_event {c : Config} {m : Byte} {bytes : List Byte} {e : Event}
    (h : dispatchModule c m bytes = .event e) :
    m = 0 ∧ e = .coldPaletteModuleData bytes ∨
    m = c.modIdRgbCap ∧ e = .rgbCapModuleData bytes := by
  unfold dispatchModule at h
  split_ifs at h with hcold hrgb
  · cases h
    exact .inl ⟨hcold, rfl⟩
  · cases h
    exact .inr ⟨hrgb, rfl⟩

/-! ## What a rule leaves unchanged -/

/-- Settles O32: the three outcomes of a rule have three different statuses, and each says what else it changes. -/
theorem receiveFrameRule : Obligations.ReceiveFrameRule := by
  intro s t i hi hexec
  obtain ⟨r, hr, hend⟩ := exec_receives_outcome hi s
  cases hend.symm.trans hexec
  cases hr with
  | event e =>
    exact ⟨fun hfail => by simp [finishDec] at hfail, fun _ hne => absurd rfl hne,
      fun _ => ⟨e, rfl⟩⟩
  | @ignored c hc =>
    refine ⟨fun _ => rfl, fun _ _ => rfl, fun hemitted => ?_⟩
    obtain ⟨-, rfl⟩ := dstatByte_inj.mp hemitted
    exact absurd hc (by decide)
  | @failed c hc =>
    refine ⟨fun _ => rfl, fun _ _ => rfl, fun hemitted => ?_⟩
    exact absurd (dstatByte_inj.mp hemitted).1 (by decide)

/-! ## The sink of an event -/

theorem finishDec_events_eq_append {r : Except DecCode DecDone} {e : Event}
    (h : (finishDec r s).events = s.events ++ [e]) : r = .ok (.event e) := by
  rcases finishDec_cases r s with ⟨e', rfl, hend⟩ | ⟨c, -, hend⟩ | ⟨c, -, hend⟩ <;> rw [hend] at h
  · simpa using h
  · simp at h
  · simp at h

theorem exec_transmits_events {t : State} {i : Instr} (hi : i.receives = false)
    (h : exec i s = .next t) : t.events = s.events := by
  rcases exec_transmits_determined s.cfg hi with ⟨g, -, hsend⟩ | hfail
  · cases (hsend s rfl).symm.trans h
    rfl
  · cases (hfail s).symm.trans h
    rfl

/-- Settles O35: an event comes from a `DATA` row, which has its own sink, or from the dispatch on the module id. -/
theorem eventsGoToTheirSink : Obligations.EventsGoToTheirSink := by
  intro s t f i e h hexec hevents
  cases hi : i.receives with
  | false => simp [exec_transmits_events hi hexec] at hevents
  | true =>
    obtain ⟨r, hr⟩ := exists_rule hi s
    cases hr.exec_eq.symm.trans hexec
    have hevent := finishDec_events_eq_append hevents
    cases hr with
    | data row =>
      obtain ⟨d, -, hd⟩ := event_of_map_eq_ok hevent
      cases hd
      cases row <;> simp [sinkOf]
    | moduleReply =>
      obtain ⟨header, m, len, rest, rfl, -, -, hdispatch⟩ := moduleReply_eq_ok h hevent
      rcases dispatchModule_eq_event hdispatch.symm with ⟨rfl, rfl⟩ | ⟨rfl, rfl⟩
      · exact .inr (.inr (.inr (.inl ⟨rfl, rfl, rfl⟩)))
      · exact .inr (.inr (.inr (.inr ⟨rfl, rfl, rfl⟩)))
    | dataRsv =>
      rcases rdB_cases s 2 with ⟨b, hb⟩ | hb <;> rw [hb] at hevent <;> cases hevent
    | noRxPath => cases hevent
    | unknown => cases hevent

/-! ## The tail of a frame -/

theorem dataFields_append_tail (h : Loaded s f) (h' : Loaded s' (f ++ tail)) {es : Nat}
    {d : Byte × List Nat} (hd : dataFields es s = .ok d) : dataFields es s' = .ok d := by
  obtain ⟨header, ch, flags, c0, c1, data, n, rfl, hn, hfit, rfl⟩ := dataFields_eq_ok h hd
  have hfit' : es * n ≤ (data ++ tail).length := by
    rw [List.length_append]
    omega
  rw [dataFields_loaded h']
  simp only [List.cons_append, ← hn, if_pos hfit']
  rw [← elements_take es n (data ++ tail), List.take_append_of_le_length hfit, elements_take]

theorem moduleReply_append_tail (h : Loaded s f) (h' : Loaded s' (f ++ tail))
    (hcfg : s'.cfg = s.cfg) {d : DecDone} (hd : moduleReply s = .ok d) : moduleReply s' = .ok d := by
  obtain ⟨header, m, len, rest, rfl, hlegal, hfit, rfl⟩ := moduleReply_eq_ok h hd
  have hfit' : 3 + len.toNat ≤ (header :: m :: len :: (rest ++ tail)).length := by
    simp only [List.length_cons, List.length_append]
    omega
  rw [moduleReply_of_fits h' hlegal hfit', hcfg]
  exact congrArg (fun bytes => Except.ok (dispatchModule s.cfg m bytes))
    (List.take_append_of_le_length (i := len.toNat) hfit)

theorem rdB_append_tail (h : Loaded s f) (h' : Loaded s' (f ++ tail)) {off : Nat} {b : Byte}
    (hb : rdB s off = .ok b) : rdB s' off = .ok b := by
  rw [rdB_loaded h] at hb
  rw [rdB_loaded h']
  rcases hf : f[off]? with _ | b' <;> rw [hf] at hb <;> cases hb
  obtain ⟨hlt, -⟩ := List.getElem?_eq_some_iff.mp hf
  rw [List.getElem?_append_left hlt, hf]

/-- A rule that succeeds read all it reads inside the frame, so it does the same with bytes behind the frame. -/
theorem Rule.append_tail (h : Loaded s f) (h' : Loaded s' (f ++ tail)) (hcfg : s'.cfg = s.cfg)
    {i : Instr} {r : Except DecCode DecDone} {d : DecDone} (hr : Rule s i r) (hd : r = .ok d) :
    Rule s' i r := by
  cases hr with
  | data row =>
    obtain ⟨x, hx, -⟩ := event_of_map_eq_ok hd
    rw [hx, ← dataFields_append_tail h h' hx]
    exact .data row
  | dataRsv =>
    rcases rdB_cases s 2 with ⟨b, hb⟩ | hb
    · rw [hb, ← rdB_append_tail h h' hb]
      exact .dataRsv
    · rw [hb] at hd
      cases hd
  | moduleReply =>
    rw [hd, ← moduleReply_append_tail h h' hcfg hd]
    exact .moduleReply
  | noRxPath hi => exact .noRxPath hi
  | unknown header => exact .unknown header

end

/-- Settles O24: a status with `OK` means that the rule succeeded, and so it does on the longer frame. -/
theorem tailBytesAreIgnored : Obligations.TailBytesAreIgnored := by
  intro s t f tail i hi h hlen hexec hok
  obtain ⟨r, hr⟩ := exists_rule hi s
  cases hr.exec_eq.symm.trans hexec
  have h' : Loaded (load (f ++ tail) s) (f ++ tail) := loaded_load _ s hlen
  rcases r with c | d
  · exact absurd hok (by simp [finishDec])
  · have hr' := hr.append_tail h h' rfl rfl
    obtain ⟨status, emitted, -, hresult⟩ := finishDec_result (.ok d)
    obtain ⟨hstatus, hevents⟩ := hresult s
    obtain ⟨hstatus', hevents'⟩ := hresult (load (f ++ tail) s)
    exact ⟨_, hr'.exec_eq, hstatus'.trans hstatus.symm, hevents'.trans hevents.symm⟩

/-! ## The lanes of an event -/

/-- Element `j` is the value of its own bytes of the frame (41_decode_data.md R112). -/
theorem dataFields_getElem? {s : State} {f : List Byte} (h : Loaded s f) {es : Nat} {ch : Byte}
    {v : List Nat} (hd : dataFields es s = .ok (ch, v)) {j : Nat} (hj : j < v.length) :
    v[j]? = some (leValue ((f.drop (5 + es * j)).take es)) := by
  obtain ⟨header, ch', flags, c0, c1, data, n, rfl, -, -, hv⟩ := dataFields_eq_ok h hd
  cases hv
  rw [elements_length] at hj
  simp only [elements, List.getElem?_map, List.getElem?_range hj, Option.map_some,
    ← List.drop_drop (i := es * j) (j := 5)]
  rfl

/-- Settles O23: the bytes of element `j` are a run of the frame, and equal runs have equal values. -/
theorem elementsAreIndependentLanes : Obligations.ElementsAreIndependentLanes := by
  intro es s s' f f' ch ch' v v' j _ h h' hd hd' hj hj' hbytes
  rw [dataFields_getElem? h hd hj, dataFields_getElem? h' hd' hj']
  have hrun : (f.drop (5 + es * j)).take es = (f'.drop (5 + es * j)).take es := by
    apply List.ext_getElem?
    intro k
    by_cases hk : k < es
    · simpa only [List.getElem?_take_of_lt hk, List.getElem?_drop] using hbytes k hk
    · rw [List.getElem?_take_eq_none (Nat.not_lt.mp hk),
        List.getElem?_take_eq_none (Nat.not_lt.mp hk)]
  rw [hrun]

end Sys2Proof.Machine
end

section
/-! PROOF. The widening of a 32-bit integer to binary64 (spec/41_decode_data.md R106): the pattern is one number with
the biased exponent above a fraction of 52 bits, and the fraction is exact because at most 31 bits stand below the
leading one. -/

namespace Sys2Proof.Machine

/-- The fraction field of a positive `v`: the bits below the leading one, moved to the top of the field. -/
def fractionOf (v : Nat) : Nat := (v - 2 ^ Nat.log2 v) * 2 ^ (52 - Nat.log2 v)

section
variable {v : Nat} (hpos : 0 < v) (hv : v < 2 ^ 32)
include hpos hv

theorem log2_le_of_lt_word : Nat.log2 v ≤ 31 :=
  Nat.le_of_lt_succ ((Nat.log2_lt hpos.ne').mpr hv)

/-- Significand times two to the exponent is the integer, in units of the last place. -/
theorem fractionOf_exact : (2 ^ 52 + fractionOf v) * 2 ^ Nat.log2 v = v * 2 ^ 52 := by
  have hle : Nat.log2 v ≤ 52 := (log2_le_of_lt_word hpos hv).trans (by decide)
  have hself : 2 ^ Nat.log2 v ≤ v := Nat.log2_self_le hpos.ne'
  have hscale : 2 ^ (52 - Nat.log2 v) * 2 ^ Nat.log2 v = 2 ^ 52 := Nat.pow_sub_mul_pow 2 hle
  calc (2 ^ 52 + fractionOf v) * 2 ^ Nat.log2 v
      = 2 ^ Nat.log2 v * 2 ^ 52
          + (v - 2 ^ Nat.log2 v) * (2 ^ (52 - Nat.log2 v) * 2 ^ Nat.log2 v) := by
        rw [fractionOf]; ring
    _ = (2 ^ Nat.log2 v + (v - 2 ^ Nat.log2 v)) * 2 ^ 52 := by rw [hscale, Nat.add_mul]
    _ = v * 2 ^ 52 := by rw [Nat.add_sub_cancel' hself]

theorem fractionOf_lt : fractionOf v < 2 ^ 52 := by
  have hle : Nat.log2 v ≤ 52 := (log2_le_of_lt_word hpos hv).trans (by decide)
  have hself : v < 2 ^ (Nat.log2 v + 1) := Nat.lt_log2_self
  have hlt : v - 2 ^ Nat.log2 v < 2 ^ Nat.log2 v := by
    rw [Nat.pow_succ] at hself
    omega
  calc fractionOf v
      < 2 ^ Nat.log2 v * 2 ^ (52 - Nat.log2 v) :=
        Nat.mul_lt_mul_of_pos_right hlt (Nat.two_pow_pos _)
    _ = 2 ^ 52 := by rw [← Nat.pow_add, Nat.add_sub_cancel' hle]

/-- The pattern as a number: sign 0, biased exponent, fraction. -/
theorem u32ToF64_toNat : (u32ToF64 v).toNat = (1023 + Nat.log2 v) * 2 ^ 52 + fractionOf v := by
  have hlog := log2_le_of_lt_word hpos hv
  have hfrac := fractionOf_lt hpos hv
  rw [u32ToF64, if_neg hpos.ne', BitVec.toNat_ofNat]
  exact Nat.mod_eq_of_lt (by rw [← fractionOf]; omega)

theorem u32ToF64_sign : ((u32ToF64 v).extractLsb' 63 1).toNat = 0 := by
  have hlog := log2_le_of_lt_word hpos hv
  have hfrac := fractionOf_lt hpos hv
  rw [BitVec.extractLsb'_toNat, u32ToF64_toNat hpos hv, Nat.shiftRight_eq_div_pow]
  omega

theorem u32ToF64_exponent : ((u32ToF64 v).extractLsb' 52 11).toNat = 1023 + Nat.log2 v := by
  have hlog := log2_le_of_lt_word hpos hv
  have hfrac := fractionOf_lt hpos hv
  rw [BitVec.extractLsb'_toNat, u32ToF64_toNat hpos hv, Nat.shiftRight_eq_div_pow]
  omega

theorem u32ToF64_fraction : ((u32ToF64 v).extractLsb' 0 52).toNat = fractionOf v := by
  have hfrac := fractionOf_lt hpos hv
  rw [BitVec.extractLsb'_toNat, u32ToF64_toNat hpos hv, Nat.shiftRight_zero]
  omega

end

/-- Settles O21: the exponent is the place of the leading one, and the three fields are read off the pattern. -/
theorem wideningIsExact : Obligations.WideningIsExact := by
  intro v hv
  refine ⟨fun hzero => if_pos hzero, fun hpos => ⟨Nat.log2 v, log2_le_of_lt_word hpos hv,
    Nat.log2_self_le hpos.ne', Nat.lt_log2_self, u32ToF64_sign hpos hv,
    u32ToF64_exponent hpos hv, ?fraction⟩⟩
  case fraction =>
    rw [u32ToF64_fraction hpos hv, fractionOf_exact hpos hv]

/-- A positive integer has an exponent field of at least 1023, and +0 one of 0. -/
theorem u32ToF64_ne_zero {v : Nat} (hpos : 0 < v) (hv : v < 2 ^ 32) : u32ToF64 v ≠ u32ToF64 0 := by
  intro heq
  have hexp := u32ToF64_exponent hpos hv
  have hzero : ((u32ToF64 0).extractLsb' 52 11).toNat = 0 := by decide
  rw [heq, hzero] at hexp
  omega

/-- Settles O22: equal patterns have equal fields, and by exactness the fields give the integer back. -/
theorem wideningIsInjective : Obligations.WideningIsInjective := by
  intro v w hv hw heq
  rcases Nat.eq_zero_or_pos v with rfl | hvpos <;> rcases Nat.eq_zero_or_pos w with rfl | hwpos
  · rfl
  · exact absurd heq.symm (u32ToF64_ne_zero hwpos hw)
  · exact absurd heq (u32ToF64_ne_zero hvpos hv)
  · have hexp : 1023 + Nat.log2 v = 1023 + Nat.log2 w := by
      rw [← u32ToF64_exponent hvpos hv, ← u32ToF64_exponent hwpos hw, heq]
    have hfrac : fractionOf v = fractionOf w := by
      rw [← u32ToF64_fraction hvpos hv, ← u32ToF64_fraction hwpos hw, heq]
    refine Nat.eq_of_mul_eq_mul_right (show 0 < 2 ^ 52 by decide) ?_
    rw [← fractionOf_exact hvpos hv, ← fractionOf_exact hwpos hw, hfrac, Nat.add_left_cancel hexp]

end Sys2Proof.Machine
end

section
/-! PROOF. How a step begins (spec/40_decode_dispatch.md, 44_encode_common.md, 70_reset_and_hazards.md section 1): it
takes the first transaction off the queue, and the packet of that transaction names the instruction that runs, or the
failure that ends it. -/

namespace Sys2Proof.Machine

/-! ## The instruction a transaction names -/

theorem runPacket_of_ok {p : Packet} {s : State} {i : Instr} (h : decode s.cfg p = .ok i) :
    runPacket p s = exec i s := by
  rw [runPacket, h]

theorem runPacket_of_error {p : Packet} {s : State} {e : DecodeError}
    (h : decode s.cfg p = .error e) : runPacket p s = .next (failDecode e s) := by
  rw [runPacket, h]

/-- A receive transaction within the bounds is run from its loaded bytes (40_decode_dispatch.md R84). -/
theorem step_of_dec {s : State} {buf : List Byte} {size : Word} {rest : List Transaction}
    (hin : s.inputs = .dec buf size :: rest) (hfit : size.toNat ≤ 64)
    (hlen : size.toNat ≤ buf.length) :
    step s = runPacket (.frame (buf.take size.toNat))
      (load (buf.take size.toNat) { s with inputs := rest }) := by
  rw [step_of_inputs hin]
  rcases runDec_cases buf size { s with inputs := rest } with
    ⟨hbig, -⟩ | ⟨-, hshort, -⟩ | ⟨-, -, hrun⟩
  · exact absurd hfit (Nat.not_le.mpr hbig)
  · exact absurd hlen (Nat.not_le.mpr hshort)
  · exact hrun

/-- Settles O5: past the two checks the front end loads the bytes and runs what they name. -/
theorem stepRunsReceivedInstruction : Obligations.StepRunsReceivedInstruction := by
  intro s buf size rest i hin hfit hlen hd
  rw [step_of_dec hin hfit hlen,
    runPacket_of_ok (s := load _ { s with inputs := rest }) hd, load, List.length_take_of_le hlen]

/-- Settles O6: the front end of a request runs what its `op` names. -/
theorem stepRunsRequestedInstruction : Obligations.StepRunsRequestedInstruction := by
  intro s op a rest i hin hd
  exact (step_of_inputs hin).trans (runPacket_of_ok (s := { s with inputs := rest }) hd)

/-- Settles O11: reset writes the five registers. -/
theorem resetClearsTheRegisters : Obligations.ResetClearsTheRegisters :=
  ⟨fun _ _ hin => step_of_inputs hin, rfl, rfl, rfl, rfl, rfl⟩

/-! ## Requests without a transmit path -/

/-- `OP_DATA` differs from the six opcodes tested, and so does a byte that is no opcode (44_encode_common.md R141,
R142). -/
theorem decode_request_without_path {c : Config} (hc : c.Legal) {op : Byte}
    (hop : op = c.opData ∨ op ∉ c.opcodes) (a : Args) :
    decode c (.request op a) = .error .noTxPath := by
  rcases hop with rfl | hop
  · obtain ⟨⟨hstop, hcw, hccw, hauto, hset, hget⟩, -⟩ := hc.opcodes_ne
    simp [decode, decodeRequest, hstop, hcw, hccw, hauto, hset, hget]
  · simp only [Config.opcodes, List.mem_cons, List.not_mem_nil, or_false, not_or] at hop
    obtain ⟨-, hstop, hcw, hccw, hauto, hset, hget⟩ := hop
    simp [decode, decodeRequest, hstop, hcw, hccw, hauto, hset, hget]

/-- Settles O29: the request names no row, and its failure empties TXF. -/
theorem requestWithoutPathFails : Obligations.RequestWithoutPathFails := by
  intro s op a rest hc hin hop
  exact (step_of_inputs hin).trans (runPacket_of_error (s := { s with inputs := rest })
    (decode_request_without_path hc hop a))

end Sys2Proof.Machine
end

section
/-! PROOF. Everything one step can do, said once (`step_result`): one case for each kind of transaction and each way it
ends. When a step stops, and what it never takes back, are read off the cases. -/

namespace Sys2Proof.Machine

/-! ## The transmit side of one state -/

/-- Settles O33: a transmit instruction sends the frame it built, or fails on its length. -/
theorem transmitFrameRule : Obligations.TransmitFrameRule := by
  intro s t i hi hexec
  rcases exec_transmits_determined s.cfg hi with ⟨f, hf, hsend⟩ | hfail
  · cases (hsend s rfl).symm.trans hexec
    rw [sendDone_building f s hf]
    exact ⟨rfl, .inl ⟨rfl, f, hf, rfl, rfl⟩⟩
  · cases (hfail s).symm.trans hexec
    exact ⟨rfl, .inr ⟨rfl, rfl, rfl⟩⟩

/-- A request sends the frame it built, or fails on its length or for want of a path (44_encode_common.md R142,
R143, R146). -/
theorem runEnc_outcome (op : Byte) (a : Args) (s : State) :
    (∃ f : List Byte, f.length = frameSize ∧ runEnc op a s = .next (sendDone (building f s))) ∨
    ∃ code ∈ [EncCode.eLenBounds, .eNoTxPath], runEnc op a s = .next (failEnc code s) := by
  rcases decodeRequest_cases s.cfg op a with ⟨i, hd, hi⟩ | hd
  · have hrun : runEnc op a s = exec i s := runPacket_of_ok hd
    rcases exec_transmits_determined s.cfg hi with ⟨f, hf, hsend⟩ | hfail
    · exact .inl ⟨f, hf, hrun.trans (hsend s rfl)⟩
    · exact .inr ⟨.eLenBounds, by decide, hrun.trans (hfail s)⟩
  · exact .inr ⟨.eNoTxPath, by decide, runPacket_of_error (p := .request op a) hd⟩

/-! ## The receive side of one state -/

theorem Rule.outcome {s : State} {i : Instr} {r : Except DecCode DecDone} (h : Rule s i r) :
    RuleOutcome r := by
  cases h with
  | data => exact dataFields_outcome _ s _
  | dataRsv =>
    rcases rdB_cases s 2 with ⟨b, hb⟩ | hb <;> rw [hb]
    · exact .ignored (by decide)
    · exact .short
  | moduleReply => exact moduleReply_outcome s
  | noRxPath => exact .ignored (by decide)
  | unknown => exact .ignored (by decide)

/-- A `DATA` event has no more elements than the bytes behind the five fixed ones make (10_state.md R29). -/
theorem DataRow.bounded {i : Instr} {es : Nat} {mk : Byte × List Nat → Event}
    (row : DataRow i es mk) (ch : Byte) {n : Nat} (raw : List Byte) (hn : es * n ≤ 59) :
    (mk (ch, elements es n raw)).bounded = true := by
  cases row <;> simp only [Event.bounded, List.length_map, elements_length, decide_eq_true_eq] <;>
    omega

/-- An event of a loaded frame is within its bounds (10_state.md R29). -/
theorem Rule.event_bounded {s : State} {f : List Byte} (h : Loaded s f) {i : Instr}
    {r : Except DecCode DecDone} (hr : Rule s i r) {e : Event} (he : r = .ok (.event e)) :
    e.bounded = true := by
  cases hr with
  | data row =>
    obtain ⟨d, hd, hmk⟩ := event_of_map_eq_ok he
    cases hmk
    obtain ⟨header, ch, flags, c0, c1, data, n, rfl, -, hfit, rfl⟩ := dataFields_eq_ok h hd
    obtain ⟨-, -, hlen⟩ := h
    simp only [List.length_cons, frameSize] at hlen
    exact row.bounded ch data (by omega)
  | moduleReply =>
    obtain ⟨header, m, len, rest, rfl, hlegal, -, hdispatch⟩ := moduleReply_eq_ok h he
    have hlen : (rest.take len.toNat).length ≤ moduleDataMax :=
      (List.length_take_le _ _).trans hlegal
    rcases dispatchModule_eq_event hdispatch.symm with ⟨-, rfl⟩ | ⟨-, rfl⟩ <;>
      exact decide_eq_true hlen
  | dataRsv => rcases rdB_cases s 2 with ⟨b, hb⟩ | hb <;> rw [hb] at he <;> cases he
  | noRxPath => cases he
  | unknown => cases he

/-- A loaded frame ends as the rule it names, or short, and its event is within its bounds. -/
theorem runPacket_frame_result {s : State} {f : List Byte} (h : Loaded s f) :
    ∃ r, RuleOutcome r ∧ (∀ e, r = .ok (.event e) → e.bounded = true) ∧
      runPacket (.frame f) s = .next (finishDec r s) := by
  rcases decodeFrame_cases s.cfg f with ⟨i, hd, hi⟩ | hd | hd
  · obtain ⟨r, hr⟩ := exists_rule hi s
    exact ⟨r, hr.outcome, fun _ => hr.event_bounded h,
      (runPacket_of_ok (p := .frame f) hd).trans hr.exec_eq⟩
  all_goals exact ⟨.error .eShort, .short, nofun, runPacket_of_error (p := .frame f) hd⟩

/-! ## Everything a step can do -/

/-- The outcomes of a step from `s`, by the transaction presented first and the way it ends. -/
inductive StepResult (s : State) : Host.Outcome State Fault Refusal → Prop where
  | idle (hin : s.inputs = []) : StepResult s (.next s)
  | reset {rest : List Transaction} (hin : s.inputs = .reset :: rest) :
      StepResult s (.next (applyReset { s with inputs := rest }))
  | tooLarge {buf : List Byte} {size : Word} {rest : List Transaction}
      (hin : s.inputs = .dec buf size :: rest) (hbig : 64 < size.toNat) :
      StepResult s (.next (failDec .eTooLarge (unload { s with inputs := rest })))
  | shortBuffer {buf : List Byte} {size : Word} {rest : List Transaction}
      (hin : s.inputs = .dec buf size :: rest) (hfit : size.toNat ≤ 64)
      (hshort : buf.length < size.toNat) : StepResult s (.refused .bufferShorterThanSize)
  | received {buf : List Byte} {size : Word} {rest : List Transaction}
      {r : Except DecCode DecDone} (hin : s.inputs = .dec buf size :: rest)
      (hfit : size.toNat ≤ 64) (hlen : size.toNat ≤ buf.length) (hr : RuleOutcome r)
      (hbounded : ∀ e, r = .ok (.event e) → e.bounded = true) :
      StepResult s (.next (finishDec r (load (buf.take size.toNat) { s with inputs := rest })))
  | sent {op : Byte} {a : Args} {rest : List Transaction} {f : List Byte}
      (hin : s.inputs = .enc op a :: rest) (hf : f.length = frameSize) :
      StepResult s (.next (sendDone (building f { s with inputs := rest })))
  | notSent {op : Byte} {a : Args} {rest : List Transaction} {code : EncCode}
      (hin : s.inputs = .enc op a :: rest) (hcode : code ∈ [.eLenBounds, .eNoTxPath]) :
      StepResult s (.next (failEnc code { s with inputs := rest }))

theorem length_take_le_frameSize {size : Word} (hfit : size.toNat ≤ 64) (buf : List Byte) :
    (buf.take size.toNat).length ≤ frameSize :=
  (List.length_take_le _ _).trans hfit

theorem step_result (s : State) : StepResult s (step s) := by
  rcases hin : s.inputs with _ | ⟨_ | _ | _, rest⟩
  case nil =>
    rw [idleStepDoesNothing s hin]
    exact .idle hin
  case cons.dec buf size =>
    rw [step_of_inputs hin, runTransaction]
    rcases runDec_cases buf size { s with inputs := rest } with
      ⟨hbig, hrun⟩ | ⟨hfit, hshort, hrun⟩ | ⟨hfit, hlen, hrun⟩ <;> rw [hrun]
    · exact .tooLarge hin hbig
    · exact .shortBuffer hin hfit hshort
    · obtain ⟨r, hr, hbounded, hend⟩ := runPacket_frame_result
        (loaded_load _ { s with inputs := rest } (length_take_le_frameSize hfit buf))
      rw [hend]
      exact .received hin hfit hlen hr hbounded
  case cons.enc op a =>
    rw [step_of_inputs hin, runTransaction]
    rcases runEnc_outcome op a { s with inputs := rest } with
      ⟨f, hf, hrun⟩ | ⟨code, hcode, hrun⟩ <;> rw [hrun]
    · exact .sent hin hf
    · exact .notSent hin hcode
  case cons.reset =>
    rw [step_of_inputs hin]
    exact .reset hin

theorem step_result_of_next {s t : State} (h : step s = .next t) : StepResult s (.next t) :=
  h ▸ step_result s

/-! ## When a step stops -/

/-- Settles O8: `shortBuffer` is the only case without a next state, and its transaction is that of no other case. -/
theorem stepStopsOnlyForShortBuffer : Obligations.StepStopsOnlyForShortBuffer := by
  intro s
  have h := step_result s
  generalize step s = o at h ⊢
  cases h with
  | shortBuffer hin hfit hshort => exact .inl ⟨rfl, _, _, _, hin, hfit, hshort⟩
  | tooLarge hin hbig =>
    refine .inr ⟨⟨_, rfl⟩, ?_⟩
    rintro ⟨buf, size, rest, hin', hfit, -⟩
    cases hin.symm.trans hin'
    exact absurd hfit (Nat.not_le.mpr hbig)
  | received hin _ hlen =>
    refine .inr ⟨⟨_, rfl⟩, ?_⟩
    rintro ⟨buf, size, rest, hin', -, hshort⟩
    cases hin.symm.trans hin'
    exact absurd hlen (Nat.not_le.mpr hshort)
  | idle hin | reset hin | sent hin | notSent hin =>
    refine .inr ⟨⟨_, rfl⟩, ?_⟩
    rintro ⟨buf, size, rest, hin', -⟩
    cases hin.symm.trans hin'

/-! ## What no step takes back -/

@[simp] theorem finishDec_cfg (r : Except DecCode DecDone) (s : State) :
    (finishDec r s).cfg = s.cfg := by
  rcases finishDec_cases r s with ⟨e, -, h⟩ | ⟨c, -, h⟩ | ⟨c, -, h⟩ <;> rw [h] <;> rfl

@[simp] theorem finishDec_inputs (r : Except DecCode DecDone) (s : State) :
    (finishDec r s).inputs = s.inputs := by
  rcases finishDec_cases r s with ⟨e, -, h⟩ | ⟨c, -, h⟩ | ⟨c, -, h⟩ <;> rw [h] <;> rfl

theorem finishDec_events_extend (r : Except DecCode DecDone) (s : State) :
    s.events <+: (finishDec r s).events := by
  obtain ⟨status, emitted, -, hresult⟩ := finishDec_result r
  exact ⟨emitted, (hresult s).2.symm⟩

/-- Settles O34: each case says what it adds to the two logs, and the queue loses the transaction that was run. -/
theorem outputsOnlyGrow : Obligations.OutputsOnlyGrow := by
  intro s t hstep
  cases step_result_of_next hstep with
  | idle hin => exact ⟨rfl, List.prefix_rfl, List.prefix_rfl, by rw [hin, List.tail_nil]⟩
  | received hin =>
    refine ⟨finishDec_cfg _ _, finishDec_events_extend _ (load _ { s with inputs := _ }), ?frames,
      ?queue⟩
    case frames =>
      rw [finishDec_frames]
      exact List.prefix_rfl
    case queue =>
      rw [finishDec_inputs, hin]
      rfl
  | sent hin => exact ⟨rfl, List.prefix_rfl, ⟨_, rfl⟩, by rw [hin]; rfl⟩
  | reset hin | tooLarge hin | notSent hin =>
    exact ⟨rfl, List.prefix_rfl, List.prefix_rfl, by rw [hin]; rfl⟩

end Sys2Proof.Machine
end

section
/-! PROOF. The invariant of a run (spec/10_state.md sections 5, 6, 10, 11). Each operation keeps it, and every case of
`step_result` is made of these operations. -/

namespace Sys2Proof.Machine

/-- Each ignore code with `OK`, and each failure code of a rule without it, is a value of `DSTAT` (10_state.md R21). -/
theorem dstatByte_mem_of_rule :
    (∀ c ∈ [DecCode.ignOpcode, .ignNoRxPath, .ignModule, .ignTag], dstatByte true c ∈
      ([0x00, 0x11, 0x12, 0x13, 0x14, 0x15, 0x08, 0x09, 0x0A] : List Byte)) ∧
    ∀ c ∈ [DecCode.eShort, .eLenBounds], dstatByte false c ∈
      ([0x00, 0x11, 0x12, 0x13, 0x14, 0x15, 0x08, 0x09, 0x0A] : List Byte) := by
  decide

/-- Each failure code of a request is a value of `ESTAT` (10_state.md R22). -/
theorem estatByte_mem_of_failure : ∀ code ∈ [EncCode.eLenBounds, .eNoTxPath],
    estatByte false code ∈ ([0x00, 0x11, 0x09, 0x0B] : List Byte) := by
  decide

section
variable {s : State} (h : s.Inv)
include h

theorem State.Inv.load {f : List Byte} (hf : f.length ≤ frameSize) : (load f s).Inv := by
  obtain ⟨hc, -, htx, hstatus, hports⟩ := h
  refine ⟨hc, ⟨Memory.wf_ofBytes f hf, hf, ?offsets⟩, htx, hstatus, hports⟩
  case offsets =>
    rw [List.range_eq_range']
    exact Memory.map_fst_ofBytes f 0

theorem State.Inv.unload : (unload s).Inv := by
  obtain ⟨hc, -, htx, hstatus, hports⟩ := h
  exact ⟨hc, ⟨rfl, Nat.zero_le _, rfl⟩, htx, hstatus, hports⟩

theorem State.Inv.setDstat {ok : Bool} {c : DecCode}
    (hd : dstatByte ok c ∈ ([0x00, 0x11, 0x12, 0x13, 0x14, 0x15, 0x08, 0x09, 0x0A] : List Byte)) :
    (setDstat ok c s).Inv := by
  obtain ⟨hc, hrx, htx, ⟨-, hestat⟩, hports⟩ := h
  exact ⟨hc, hrx, htx, ⟨hd, hestat⟩, hports⟩

theorem State.Inv.emit {e : Event} (he : e.bounded = true) : (emit e s).Inv := by
  obtain ⟨hc, hrx, htx, hstatus, hframes, hevents⟩ := h
  refine ⟨hc, hrx, htx, hstatus, hframes, fun e' he' => ?_⟩
  rcases List.mem_append.mp he' with hold | hnew
  · exact hevents e' hold
  · rwa [List.mem_singleton.mp hnew]

theorem State.Inv.finishDec {r : Except DecCode DecDone} (hr : RuleOutcome r)
    (hbounded : ∀ e, r = .ok (.event e) → e.bounded = true) : (finishDec r s).Inv := by
  cases hr with
  | event e => exact (h.emit (hbounded e rfl)).setDstat (by decide)
  | ignored hc => exact h.setDstat (dstatByte_mem_of_rule.1 _ hc)
  | failed hc => exact h.setDstat (dstatByte_mem_of_rule.2 _ hc)

theorem State.Inv.sendDone {f : List Byte} (hf : f.length = frameSize) :
    (sendDone (building f s)).Inv := by
  obtain ⟨hc, hrx, -, ⟨hdstat, -⟩, hframes, hevents⟩ := h
  rw [sendDone_building f s hf]
  refine ⟨hc, hrx, ⟨Memory.wf_ofBytes f hf.le, .inr ?offsets⟩, ⟨hdstat, by simp⟩,
    fun g hg => ?lengths, hevents⟩
  case offsets => rw [Memory.map_fst_ofBytes, hf, List.range_eq_range']
  case lengths =>
    rcases List.mem_append.mp hg with hold | hnew
    · exact hframes g hold
    · rwa [List.mem_singleton.mp hnew]

theorem State.Inv.failEnc {code : EncCode} (hcode : code ∈ [.eLenBounds, .eNoTxPath]) :
    (failEnc code s).Inv := by
  obtain ⟨hc, hrx, -, ⟨hdstat, -⟩, hports⟩ := h
  exact ⟨hc, hrx, ⟨rfl, .inl rfl⟩, ⟨hdstat, estatByte_mem_of_failure code hcode⟩, hports⟩

theorem State.Inv.applyReset : (applyReset s).Inv := by
  obtain ⟨hc, -, -, -, hports⟩ := h
  exact ⟨hc, ⟨rfl, Nat.zero_le _, rfl⟩, ⟨rfl, .inl rfl⟩, ⟨by simp, by simp⟩, hports⟩

/-- The invariant says nothing of the transactions to come. -/
theorem State.Inv.withInputs (inputs : List Transaction) : State.Inv { s with inputs := inputs } := h

end

/-- Settles O42: every case of a step is made of operations that keep the invariant. -/
theorem stepKeepsTheInvariant : Obligations.StepKeepsTheInvariant := by
  intro s t h hstep
  cases step_result_of_next hstep with
  | idle => exact h
  | reset => exact (h.withInputs _).applyReset
  | tooLarge => exact (h.withInputs _).unload.setDstat (by decide)
  | received _ hfit _ hr hbounded =>
    exact ((h.withInputs _).load (length_take_le_frameSize hfit _)).finishDec hr hbounded
  | sent _ hf => exact (h.withInputs _).sendDone hf
  | notSent _ hcode => exact (h.withInputs _).failEnc hcode

/-- Settles O43: the defaults are legal, the registers hold no byte and the logs are empty. -/
theorem resetHasTheInvariant : Obligations.ResetHasTheInvariant :=
  ⟨by decide, ⟨rfl, Nat.zero_le _, rfl⟩, ⟨rfl, .inl rfl⟩, ⟨by decide, by decide⟩, nofun, nofun⟩

end Sys2Proof.Machine
end

section
/-! PROOF. The two halves commute (spec/10_state.md section 2). A transaction of one half has one effect on all states
with the same parameters, and the effect of a request passes through the end of a `DEC`. -/

namespace Sys2Proof.Machine

/-- A receive transaction is refused from every state, or leaves RXF and RXSIZE and ends with one outcome in all
states with the same parameters (10_state.md R26). -/
theorem runDec_uniform (c : Config) (buf : List Byte) (size : Word) :
    (∀ s, runDec buf size s = .refused .bufferShorterThanSize) ∨
    ∃ r rxf rxsize, ∀ s, s.cfg = c →
      runDec buf size s = .next (finishDec r { s with rxf := rxf, rxsize := rxsize }) := by
  by_cases hbig : frameSize < size.toNat
  · exact .inr ⟨.error .eTooLarge, [], none, fun s _ => if_pos hbig⟩
  by_cases hshort : buf.length < size.toNat
  · exact .inl fun s => (if_neg hbig).trans (if_pos hshort)
  · obtain ⟨r, hr⟩ := runPacket_frame_determined
      (load (buf.take size.toNat) { State.reset with cfg := c }) (buf.take size.toNat)
    refine .inr ⟨r, Memory.ofBytes 0 (buf.take size.toNat), some (buf.take size.toNat).length,
      fun s hc => ?_⟩
    rcases runDec_cases buf size s with ⟨hbig', -⟩ | ⟨-, hshort', -⟩ | ⟨-, -, hrun⟩
    · exact absurd hbig' hbig
    · exact absurd hshort' hshort
    · exact hrun.trans (hr _ (.load hc _))

/-- `E` works on the encoder's half: it reads and writes none of the queue and of what a `DEC` reads and writes
(10_state.md section 2). -/
structure TransmitEffect (E : State → State) : Prop where
  cfg : ∀ s, (E s).cfg = s.cfg
  inputs : ∀ s inputs, E { s with inputs := inputs } = { E s with inputs := inputs }
  finishDec : ∀ r rxf rxsize s, E (finishDec r { s with rxf := rxf, rxsize := rxsize })
    = Machine.finishDec r { E s with rxf := rxf, rxsize := rxsize }

theorem transmitEffect_sendDone (f : List Byte) :
    TransmitEffect fun s => sendDone (building f s) where
  cfg _ := rfl
  inputs _ _ := rfl
  finishDec r _ _ _ := by rcases r with c | e | c <;> rfl

theorem transmitEffect_failEnc (code : EncCode) : TransmitEffect (failEnc code) where
  cfg _ := rfl
  inputs _ _ := rfl
  finishDec r _ _ _ := by rcases r with c | e | c <;> rfl

/-- A transmit request has one effect on all states with the same parameters. -/
theorem runEnc_uniform (c : Config) (op : Byte) (a : Args) :
    ∃ E, TransmitEffect E ∧ ∀ s, s.cfg = c → runEnc op a s = .next (E s) := by
  rcases runEnc_determined c op a with ⟨f, -, hsend⟩ | ⟨code, hfail⟩
  · exact ⟨_, transmitEffect_sendDone f, hsend⟩
  · exact ⟨_, transmitEffect_failEnc code, hfail⟩

/-- The end of a `DEC` does not look at the transactions to come. -/
theorem finishDec_withInputs (r : Except DecCode DecDone) (s : State) (inputs : List Transaction) :
    { finishDec r s with inputs := inputs } = finishDec r { s with inputs := inputs } := by
  rcases r with c | e | c <;> rfl

section
variable {s t : State} {earlier later : Transaction} {rest : List Transaction}

theorem twoSteps_of_next
    (h : runTransaction earlier { s with inputs := later :: rest } = .next t)
    (hin : t.inputs = later :: rest) :
    twoSteps { s with inputs := earlier :: later :: rest }
      = runTransaction later { t with inputs := rest } := by
  have hstep : step { s with inputs := earlier :: later :: rest } = .next t := h
  rw [twoSteps, hstep]
  exact step_of_inputs hin

theorem twoSteps_of_refused {reason : Refusal}
    (h : runTransaction earlier { s with inputs := later :: rest } = .refused reason) :
    twoSteps { s with inputs := earlier :: later :: rest } = .refused reason := by
  have hstep : step { s with inputs := earlier :: later :: rest } = .refused reason := h
  rw [twoSteps, hstep]

end

/-- Settles O40: each half has one effect before and after the other, and the effects are on different fields. -/
theorem halvesCommute : Obligations.HalvesCommute := by
  intro s buf size op a rest
  obtain ⟨E, hE, henc⟩ := runEnc_uniform s.cfg op a
  have hencFirst : twoSteps { s with inputs := .enc op a :: .dec buf size :: rest }
      = runDec buf size (E { s with inputs := rest }) := by
    have hrun := henc { s with inputs := .dec buf size :: rest } rfl
    rw [hE.inputs s (.dec buf size :: rest)] at hrun
    rw [twoSteps_of_next (s := s) (earlier := .enc op a) hrun rfl, hE.inputs s rest]
    rfl
  rw [hencFirst]
  rcases runDec_uniform s.cfg buf size with hrefused | ⟨r, rxf, rxsize, hdec⟩
  · rw [twoSteps_of_refused (s := s) (earlier := .dec buf size) (hrefused _), hrefused]
  · have hrun := hdec { s with inputs := .enc op a :: rest } rfl
    have hcfg : (finishDec r { s with rxf := rxf, rxsize := rxsize, inputs := rest }).cfg = s.cfg :=
      finishDec_cfg r _
    rw [twoSteps_of_next (s := s) (earlier := .dec buf size) hrun (finishDec_inputs _ _),
      finishDec_withInputs,
      hdec _ (hE.cfg { s with inputs := rest }), ← hE.finishDec]
    exact henc _ hcfg

end Sys2Proof.Machine
end

section
/-! PROOF. The status of a receive transaction as the ordered list of checks (spec/60_exceptions.md R189,
40_decode_dispatch.md section 3). Each opcode's checks are one lemma about the loaded frame; the frame is followed by
a tail, because the checks are written over the caller's buffer. -/

namespace Sys2Proof.Machine

/-- Settles O12: the values of the two registers are finitely many and are packed by computation. -/
theorem statusBytesHaveTheSpecNumbers : Obligations.StatusBytesHaveTheSpecNumbers := ⟨rfl, rfl⟩

/-! ## The checks, over the first `n` bytes of a buffer -/

/-- The checks behind the tag of a `DATA` frame of element size `es` (41_decode_data.md R100, R108). -/
def elementsStatus (es n : Nat) (b : List Byte) : Byte :=
  if n < 5 then 0x0A
  else if n < 5 + es * (((b.getD 3 0).toNat + 256 * (b.getD 4 0).toNat) / es) then 0x0A
  else 0x11

/-- The checks of a module reply (42_decode_module_id.md R122). -/
def moduleStatus (c : Config) (n : Nat) (b : List Byte) : Byte :=
  if n < 3 then 0x0A
  else if 20 < (b.getD 2 0).toNat then 0x09
  else if n < 3 + (b.getD 2 0).toNat then 0x0A
  else if b.getD 1 0 = 0 ∨ b.getD 1 0 = c.modIdRgbCap then 0x11
  else 0x14

/-- The checks of a `DATA` frame (41_decode_data.md R100, R105). -/
def dataStatus (n : Nat) (b : List Byte) : Byte :=
  let flags := (b.getD 2 0).toNat
  if n < 3 then 0x0A
  else if flags % 4 = 3 then 0x15
  else elementsStatus (if flags % 4 = 0 then 1 else if flags % 4 = 1 then 2 else 4) n b

/-- The checks behind the size check (60_exceptions.md R189). -/
def frameStatus (c : Config) (n : Nat) (b : List Byte) : Byte :=
  if n = 0 then 0x0A
  else if b.getD 0 0 ∉ c.opcodes then 0x12
  else if b.getD 0 0 = c.opData then dataStatus n b
  else if b.getD 0 0 = c.opGetModuleIdData then moduleStatus c n b
  else 0x13

/-- The outcome has a next state with that `DSTAT`. -/
def EndsWith (o : Host.Outcome State Fault Refusal) (status : Byte) : Prop :=
  ∃ t, o = .next t ∧ t.dstat = status

theorem endsWith_of_next {o : Host.Outcome State Fault Refusal} {t : State} (h : o = .next t) :
    EndsWith o t.dstat :=
  ⟨t, h, rfl⟩

theorem exists_cons_of_three_le {f : List Byte} (h : ¬ f.length < 3) :
    ∃ b0 b1 b2 rest, f = b0 :: b1 :: b2 :: rest := by
  obtain _ | ⟨b0, _ | ⟨b1, _ | ⟨b2, rest⟩⟩⟩ := f
  case cons.cons.cons => exact ⟨b0, b1, b2, rest, rfl⟩
  all_goals simp at h

theorem exists_cons_of_five_le {f : List Byte} (h : ¬ f.length < 5) :
    ∃ b0 b1 b2 b3 b4 rest, f = b0 :: b1 :: b2 :: b3 :: b4 :: rest := by
  obtain ⟨b0, b1, b2, rest, rfl⟩ := exists_cons_of_three_le fun hlt => h (hlt.trans (by decide))
  obtain _ | ⟨b3, _ | ⟨b4, rest⟩⟩ := rest
  case cons.cons => exact ⟨b0, b1, b2, b3, b4, rest, rfl⟩
  all_goals simp at h

/-! ## The checks of each opcode -/

section
variable {s : State} {f : List Byte} (tail : List Byte)

theorem emitData_status (h : Loaded s f) (es : Nat) (mk : Byte × List Nat → Event) :
    EndsWith (emitData es mk s) (elementsStatus es f.length (f ++ tail)) := by
  unfold elementsStatus
  by_cases hfixed : f.length < 5
  · rw [if_pos hfixed]
    exact endsWith_of_next (emitData_of_length_lt_five h es mk hfixed)
  · obtain ⟨hd, ch, flags, c0, c1, data, rfl⟩ := exists_cons_of_five_le hfixed
    rw [if_neg hfixed]
    split_ifs with hend
    · exact endsWith_of_next (emitData_of_past_end h es mk hend)
    · exact endsWith_of_next (emitData_of_fits h es mk (Nat.not_lt.mp hend))

theorem exec_rxDataRsv_status {hd ch flags : Byte} {rest : List Byte}
    (h : Loaded s (hd :: ch :: flags :: rest)) : EndsWith (exec .rxDataRsv s) 0x15 := by
  rw [exec_rxDataRsv, rdB_loaded h]
  exact endsWith_of_next rfl

/-- The row a tag selects, by its value (30_encoding.md R57). -/
theorem exec_dataInstr_status {hd ch flags : Byte} {rest : List Byte}
    (h : Loaded s (hd :: ch :: flags :: rest)) :
    EndsWith (exec (dataInstr (BitVec.ofNat 2 (flags.toNat % 4))) s)
      (dataStatus (hd :: ch :: flags :: rest).length (hd :: ch :: flags :: rest ++ tail)) := by
  have hflags : (hd :: ch :: flags :: rest ++ tail).getD 2 0 = flags := rfl
  have hlen : ¬ (hd :: ch :: flags :: rest).length < 3 := by simp
  have htag : flags.toNat % 4 < 4 := Nat.mod_lt _ (by decide)
  simp only [dataStatus, hflags, if_neg hlen]
  generalize flags.toNat % 4 = tag at htag
  match tag, htag with
  | 0, _ => exact emitData_status tail h 1 _
  | 1, _ => exact emitData_status tail h 2 _
  | 2, _ => exact emitData_status tail h 4 _
  | 3, _ => exact exec_rxDataRsv_status h

theorem exec_rxGetModuleIdData_status (hc : s.cfg.Legal) (h : Loaded s f) :
    EndsWith (exec .rxGetModuleIdData s) (moduleStatus s.cfg f.length (f ++ tail)) := by
  unfold moduleStatus
  by_cases hlen : f.length < 3
  · rw [if_pos hlen]
    exact endsWith_of_next
      (exec_rxGetModuleIdData_of_error (moduleReply_of_length_lt_three h hlen))
  · obtain ⟨hd, m, len, rest, rfl⟩ := exists_cons_of_three_le hlen
    rw [if_neg hlen]
    have hm : (hd :: m :: len :: rest ++ tail).getD 1 0 = m := rfl
    have hdl : (hd :: m :: len :: rest ++ tail).getD 2 0 = len := rfl
    rw [hm, hdl]
    split_ifs with hover hend hsink
    · exact endsWith_of_next (exec_rxGetModuleIdData_of_error (moduleReply_of_overlong h hover))
    · exact endsWith_of_next (exec_rxGetModuleIdData_of_error
        (moduleReply_of_past_end h (Nat.not_lt.mp hover) hend))
    · have hreply := moduleReply_of_fits h (Nat.not_lt.mp hover) (Nat.not_lt.mp hend)
      rcases hsink with rfl | rfl
      · rw [dispatchModule_coldPalette] at hreply
        exact endsWith_of_next (exec_rxGetModuleIdData_of_event hreply)
      · rw [dispatchModule_rgbCap hc] at hreply
        exact endsWith_of_next (exec_rxGetModuleIdData_of_event hreply)
    · obtain ⟨hcold, hrgb⟩ := not_or.mp hsink
      have hreply := moduleReply_of_fits h (Nat.not_lt.mp hover) (Nat.not_lt.mp hend)
      rw [dispatchModule_other hcold hrgb] at hreply
      exact endsWith_of_next (exec_rxGetModuleIdData_of_ignored hreply)

/-- Past `OP_DATA` and `OP_GET_MODULE_ID_DATA` an opcode has no receive path (43_decode_ignored.md R131, R132). -/
theorem decode_noRxPath_frame {c : Config} (hc : c.Legal) {h : Byte} (hop : h ∈ c.opcodes)
    (hdata : h ≠ c.opData) (hget : h ≠ c.opGetModuleIdData) (payload : List Byte) :
    ∃ i ∈ [Instr.rxStop, .rxStartClockwise, .rxStartCounterClockwise, .rxStartAutoSwitcher,
      .rxSetModuleIdData], decode c (.frame (h :: payload)) = .ok i := by
  simp only [Config.opcodes, List.mem_cons, List.not_mem_nil, or_false, hdata, hget,
    false_or] at hop
  rcases hop with rfl | rfl | rfl | rfl | rfl
  · exact ⟨_, by decide, decode_stop_frame hc payload⟩
  · exact ⟨_, by decide, decode_startClockwise_frame hc payload⟩
  · exact ⟨_, by decide, decode_startCounterClockwise_frame hc payload⟩
  · exact ⟨_, by decide, decode_startAutoSwitcher_frame hc payload⟩
  · exact ⟨_, by decide, decode_setModuleIdData_frame hc payload⟩

/-- A `DATA` frame without its `flags` byte names no row (41_decode_data.md R100). -/
theorem decode_data_frame_of_short {c : Config} (hc : c.Legal) {payload : List Byte}
    (hlen : (c.opData :: payload).length < 3) :
    decode c (.frame (c.opData :: payload)) = .error .flagsMissing := by
  obtain ⟨⟨-, -, -, -, -, hget⟩, -⟩ := hc.opcodes_ne
  have hflags : (c.opData :: payload)[2]? = none := List.getElem?_eq_none (Nat.le_of_lt_succ hlen)
  simp only [decode, decodeFrame, List.getElem?_cons_zero, if_neg hget, if_true, hflags]

theorem runPacket_data_status (hc : s.cfg.Legal) {payload : List Byte}
    (h : Loaded s (s.cfg.opData :: payload)) :
    EndsWith (runPacket (.frame (s.cfg.opData :: payload)) s)
      (dataStatus (s.cfg.opData :: payload).length (s.cfg.opData :: payload ++ tail)) := by
  by_cases hlen : (s.cfg.opData :: payload).length < 3
  · rw [dataStatus, if_pos hlen]
    exact endsWith_of_next (runPacket_of_error (decode_data_frame_of_short hc hlen))
  · obtain ⟨header, ch, flags, rest, hf⟩ := exists_cons_of_three_le hlen
    cases hf
    rw [runPacket_of_ok (decode_data_frame hc ch flags rest)]
    exact exec_dataInstr_status tail h

/-- A loaded frame ends with the status of the first check that applies. -/
theorem runPacket_frame_status (hc : s.cfg.Legal) (h : Loaded s f) :
    EndsWith (runPacket (.frame f) s) (frameStatus s.cfg f.length (f ++ tail)) := by
  obtain _ | ⟨header, payload⟩ := f
  · exact endsWith_of_next (runPacket_of_error (p := .frame []) rfl)
  have hheader : (header :: payload ++ tail).getD 0 0 = header := rfl
  have hlen : ¬ (header :: payload).length = 0 := by simp
  rw [frameStatus, if_neg hlen, hheader]
  split_ifs with hop hdata hget
  · subst hdata
    exact runPacket_data_status tail hc h
  · subst hget
    rw [runPacket_of_ok (decode_moduleReply_frame rfl)]
    exact exec_rxGetModuleIdData_status tail hc h
  · obtain ⟨i, hi, hd⟩ := decode_noRxPath_frame hc hop hdata hget payload
    rw [runPacket_of_ok hd]
    exact endsWith_of_next (exec_of_noRxPath hi s)
  · rw [runPacket_of_ok (decode_unknown_frame hop payload)]
    exact endsWith_of_next (exec_rxUnknown header s)

end

/-- Settles O10: the size check comes first, and the buffer is the loaded frame and a tail. -/
theorem receiveStatusFollowsPriority : Obligations.ReceiveStatusFollowsPriority := by
  intro s buf size rest hc hin hlen
  by_cases hbig : 64 < size.toNat
  · exact ⟨_, (step_of_inputs hin).trans (if_pos hbig), (if_pos hbig).symm⟩
  · have hfit := Nat.not_lt.mp hbig
    have hstatus := runPacket_frame_status
      (s := load (buf.take size.toNat) { s with inputs := rest }) (buf.drop size.toNat) hc
      (loaded_load _ { s with inputs := rest } (length_take_le_frameSize hfit buf))
    rw [List.take_append_drop, List.length_take_of_le (hlen hfit),
      ← step_of_dec hin hfit (hlen hfit)] at hstatus
    obtain ⟨t, hstep, hdstat⟩ := hstatus
    exact ⟨t, hstep, hdstat.trans (if_neg hbig).symm⟩

end Sys2Proof.Machine
end

section
/-! PROOF. The round trip from the encoder to the decoder (spec/44_encode_common.md, 95_test_vectors.md section 3): a
frame sent begins with its row's opcode, so five rows come back as ignored opcodes, and a request for module data comes
back as a reply whose data bytes are the zeros behind its three header bytes. -/

namespace Sys2Proof.Machine

/-! ## The frame a row sends -/

section
variable {s t : State} {i : Instr} {f : List Byte} (hexec : exec i s = .next t)
  (hframes : t.frames = s.frames ++ [f])
include hexec hframes

theorem sent_frame_eq {g : List Byte} (hg : g.length = frameSize)
    (hsend : exec i s = .next (sendDone (building g s))) : f = g := by
  cases hsend.symm.trans hexec
  rw [sendDone_building g s hg] at hframes
  exact (List.singleton_inj.mp (List.append_cancel_left hframes)).symm

/-- A request that failed sent nothing (44_encode_common.md R146). -/
theorem sent_ne_failEnc (code : EncCode) : exec i s ≠ .next (failEnc code s) := by
  intro hfail
  cases hfail.symm.trans hexec
  simp at hframes

/-- Five rows send a frame that names a row without a receive path (43_decode_ignored.md R131, R132). -/
theorem sent_frame_noRxPath (hc : s.cfg.Legal) (hi : i.receives = false)
    (hget : ∀ moduleId reqLen, i ≠ .txGetModuleIdData moduleId reqLen) :
    ∃ j ∈ [Instr.rxStop, .rxStartClockwise, .rxStartCounterClockwise, .rxStartAutoSwitcher,
      .rxSetModuleIdData], decode s.cfg (.frame f) = .ok j := by
  cases i with
  | txStop channel =>
    obtain rfl := sent_frame_eq hexec hframes
      (g := [s.cfg.opStop, channel] ++ List.replicate 62 0) rfl rfl
    exact ⟨_, by decide, decode_stop_frame hc _⟩
  | txStartClockwise channel =>
    obtain rfl := sent_frame_eq hexec hframes
      (g := [s.cfg.opStartClockwise, channel] ++ List.replicate 62 0) rfl rfl
    exact ⟨_, by decide, decode_startClockwise_frame hc _⟩
  | txStartCounterClockwise channel =>
    obtain rfl := sent_frame_eq hexec hframes
      (g := [s.cfg.opStartCounterClockwise, channel] ++ List.replicate 62 0) rfl rfl
    exact ⟨_, by decide, decode_startCounterClockwise_frame hc _⟩
  | txStartAutoSwitcher channel offTime onTime count =>
    obtain rfl := sent_frame_eq hexec hframes (autoSwitcherFrame_length ..)
      (exec_txStartAutoSwitcher channel offTime onTime count s)
    exact ⟨_, by decide, decode_startAutoSwitcher_frame hc _⟩
  | txSetModuleIdData moduleId data len =>
    by_cases hover : moduleDataMax < len.toNat
    · exact absurd (exec_txSetModuleIdData_of_overlong moduleId data hover s)
        (sent_ne_failEnc hexec hframes _)
    · have hfits := Nat.not_lt.mp hover
      obtain rfl := sent_frame_eq hexec hframes (setModuleFrame_length moduleId data _ hfits)
        (exec_txSetModuleIdData_of_fits moduleId data hfits s)
      exact ⟨_, by decide, decode_setModuleIdData_frame hc _⟩
  | txGetModuleIdData moduleId reqLen => exact absurd rfl (hget moduleId reqLen)
  | _ => cases hi

theorem sent_frame_length (hi : i.receives = false) : f.length = frameSize := by
  rcases exec_transmits_determined s.cfg hi with ⟨g, hg, hsend⟩ | hfail
  · rw [sent_frame_eq hexec hframes hg (hsend s rfl), hg]
  · exact absurd (hfail s) (sent_ne_failEnc hexec hframes _)

end

/-! ## The frame presented to a decoder -/

/-- A whole frame is loaded as it is (40_decode_dispatch.md R84). -/
theorem step_of_whole_frame {u : State} {f : List Byte} {rest : List Transaction}
    (hin : u.inputs = .dec f 64 :: rest) (hf : f.length = frameSize) :
    step u = runPacket (.frame f) (load f { u with inputs := rest }) := by
  have htake : f.take (64 : Word).toNat = f := List.take_of_length_le hf.le
  have hstep := step_of_dec hin (by decide) hf.ge
  rwa [htake] at hstep

/-- The reply a request comes back as: the data bytes are the zeros behind its header bytes
(47_encode_module_id.md R170). -/
theorem moduleReply_of_request {u : State} {opc moduleId reqLen : Byte}
    (hu : Loaded u (moduleRequestFrame opc moduleId reqLen)) (hfits : reqLen.toNat ≤ 20) :
    moduleReply u = .ok (dispatchModule u.cfg moduleId (List.replicate reqLen.toNat 0)) := by
  have hpresent : 3 + reqLen.toNat ≤ (moduleRequestFrame opc moduleId reqLen).length := by
    rw [moduleRequestFrame_length, frameSize]
    omega
  have hreply := moduleReply_of_fits hu hfits hpresent
  have hzeros : (List.replicate 61 (0 : Byte)).take reqLen.toNat = List.replicate reqLen.toNat 0 := by
    rw [List.take_replicate, Nat.min_eq_left (hfits.trans (by decide))]
  rw [← hzeros]
  exact hreply

/-- Settles O41: the frame names the row of its opcode, whose rule ignores it, or dispatches it by its module id. -/
theorem sentFramesDecodeAsTheSpecSays : Obligations.SentFramesDecodeAsTheSpecSays := by
  intro s t u i f rest hc hi hexec hframes hcfg hin
  have hf := sent_frame_length hexec hframes hi
  have hu : Loaded (load f { u with inputs := rest }) f := loaded_load _ _ hf.le
  rw [step_of_whole_frame hin hf]
  rw [← hcfg] at hc
  by_cases hget : ∃ moduleId reqLen, i = .txGetModuleIdData moduleId reqLen
  case neg =>
    push Not at hget
    obtain ⟨j, hj, hd⟩ := sent_frame_noRxPath hexec hframes (hcfg ▸ hc) hi hget
    rw [← hcfg] at hd
    refine ⟨_, (runPacket_of_ok (s := load f { u with inputs := rest }) hd).trans
      (exec_of_noRxPath hj _), ?_⟩
    cases i
    case txGetModuleIdData moduleId reqLen => exact absurd rfl (hget moduleId reqLen)
    all_goals exact ⟨rfl, rfl⟩
  case pos =>
    obtain ⟨moduleId, reqLen, rfl⟩ := hget
    by_cases hover : moduleDataMax < reqLen.toNat
    · exact absurd (exec_txGetModuleIdData_of_overlong moduleId hover s)
        (sent_ne_failEnc hexec hframes _)
    have hfits := Nat.not_lt.mp hover
    obtain rfl := sent_frame_eq hexec hframes (moduleRequestFrame_length ..)
      (exec_txGetModuleIdData_of_fits moduleId hfits s)
    have hreply := moduleReply_of_request hu hfits
    have hheader : (moduleRequestFrame s.cfg.opGetModuleIdData moduleId reqLen)[0]?
        = some u.cfg.opGetModuleIdData := by
      rw [hcfg]
      rfl
    refine ⟨_, (runPacket_of_ok (s := load _ { u with inputs := rest })
      (decode_moduleReply_frame hheader)).trans (exec_rxGetModuleIdData _), ?_⟩
    rw [hreply, ← hcfg]
    refine ⟨?coldPalette, ?rgbCap, ?other⟩
    case coldPalette =>
      rintro rfl
      exact ⟨rfl, rfl⟩
    case rgbCap =>
      rintro rfl
      rw [load_cfg, dispatchModule_rgbCap hc]
      exact ⟨rfl, rfl⟩
    case other =>
      intro hcold hrgb
      rw [load_cfg, dispatchModule_other hcold hrgb]
      exact ⟨rfl, rfl⟩

end Sys2Proof.Machine
end
